-- ==== Sys2Proof/Word.lean ====
section
/-! DEFINITION. The unsigned words of the block (00_scope.md R6) and the numbers of ports and slots (R5). -/

namespace Sys2Proof

/-- `u8` of R6. -/
abbrev Byte := BitVec 8

/-- `u16` of R6. -/
abbrev Half := BitVec 16

/-- `u32` of R6: registers of SIO2, card byte addresses, sector numbers. -/
abbrev Word := BitVec 32

/-- The parameters of R5 that are sizes. -/
structure Sizes where
  /-- NPORTS. -/
  nports : Nat
  /-- NSLOTS, of each port. -/
  nslots : Nat
  /-- SEND3_ENTRIES. -/
  send3Entries : Nat
  /-- SEND1_ENTRIES. -/
  send1Entries : Nat
  /-- SEND2_ENTRIES. -/
  send2Entries : Nat
  /-- PS1_SECTOR_BYTES. -/
  ps1SectorBytes : Nat
  deriving DecidableEq, Repr

/-- The sizes R5 states. -/
abbrev sizes : Sizes where
  nports := 2
  nslots := 4
  send3Entries := 16
  send1Entries := 4
  send2Entries := 4
  ps1SectorBytes := 128

/-- A physical port, 0 or 1. -/
abbrev Port := Fin sizes.nports

/-- A logical slot of a port, 0 to 3. -/
abbrev Slot := Fin sizes.nslots

/-- A table with one entry for each slot of each port. -/
abbrev SlotTable (α : Type) := Vector (Vector α sizes.nslots) sizes.nports

end Sys2Proof
end

