-- ==== Sys2Proof/Config.lean ====
section
/-! DEFINITION. What an implementation fixes, the parameters of 00_scope.md R5, and the free values: opaque constants without a body, so that nothing rests on what they are. -/

namespace Sys2Proof

/-- The byte before the terminator in the WriteData reply (WRITE_DATA_TRAILER of R5, R218). -/
inductive Trailer where
  /-- The exclusive or of the written bytes, the spec's setting. -/
  | checksum
  /-- The constant 0x2B, the other setting (92_eei_decisions.md D36). -/
  | reply2B
  deriving DecidableEq, Repr

/-- What the PS1 checksum starts from (PS1_CHECKSUM_SEED of R5, R243). -/
inductive Seed where
  /-- 0x00, the spec's setting. -/
  | zero
  /-- The exclusive or of the two address bytes (92_eei_decisions.md D41). -/
  | address
  deriving DecidableEq, Repr

/-- What reply lengths are measured from (PAD_BASIS of R5, R171). -/
inductive Basis where
  /-- The size of fifoOut when the frame completed, the spec's setting. -/
  | relative
  /-- The whole of fifoOut (92_eei_decisions.md D25). -/
  | absolute
  deriving DecidableEq, Repr

/-- The parameters of R5 that have two settings or no stated value. A State carries one `Params`, which no
operation writes; a statement about every state holds for every setting. -/
structure Params where
  /-- AUTO_EJECT_TICKS, at least 1 (R272). -/
  autoEjectTicks : Nat
  /-- ECC_BYTES, the spare bytes stored behind each sector of a PS2-type card (R41). -/
  eccBytes : Nat
  /-- SOFTRESET_CLEARS_FIFOOUT (R312). -/
  softresetClearsFifoOut : Bool
  /-- SIO0_TX_ENABLE_GATES (92_eei_decisions.md D6). -/
  sio0TxEnableGates : Bool
  /-- SIO2_IRQ_NEEDS_START (R106). -/
  sio2IrqNeedsStart : Bool
  /-- WRITE_DATA_TRAILER (R218). -/
  writeDataTrailer : Trailer
  /-- PS1_CHECKSUM_SEED (R243). -/
  ps1ChecksumSeed : Seed
  /-- PAD_BASIS (R171). -/
  padBasis : Basis
  deriving DecidableEq, Repr

/-- The parameters of R5, a field each; the value the model runs with is `config` (Machine/Codes.lean). Three rows stand
elsewhere because of what they are: MultitapEnabled[port] is an input of each operation (`Inputs`, R28), the register
widths that fields of `Block` have are types as well (`Byte`, `Half`, `Word`), and the unbounded capacity of the queues
is the type of their fields, `List Byte`. -/
structure Configuration where
  /-- NPORTS, NSLOTS, SEND3_ENTRIES, SEND1_ENTRIES, SEND2_ENTRIES, PS1_SECTOR_BYTES. -/
  sizes : Sizes
  /-- AUTO_EJECT_TICKS, ECC_BYTES and the six two-valued parameters, as they are at reset. -/
  params : Params
  /-- Mode bytes (R69, R70). -/
  modePad : Byte
  modeMultitap : Byte
  modeInfrared : Byte
  modeMemcard : Byte
  /-- Multitap command bytes (R71). -/
  mtapPadSupportCheck : Byte
  mtapMemcardSupportCheck : Byte
  mtapSelectPad : Byte
  mtapSelectMemcard : Byte
  /-- Memory-card command bytes (R72). -/
  mcProbe : Byte
  mcSetEraseSector : Byte
  mcSetWriteSector : Byte
  mcSetReadSector : Byte
  mcGetSpecs : Byte
  mcSetTerminator : Byte
  mcGetTerminator : Byte
  mcWriteData : Byte
  mcReadData : Byte
  mcReadWriteEnd : Byte
  mcEraseBlock : Byte
  mcUnknownBoot : Byte
  mcAuthXor : Byte
  mcAuthF3 : Byte
  mcAuthF7 : Byte
  /-- PS1 command bytes (R70, R72). -/
  ps1Read : Byte
  ps1State : Byte
  ps1Write : Byte
  ps1Pocketstation : Byte
  /-- IsPadCommand: the lowest and the highest byte the pad accepts as a command (R70). -/
  padCommandLow : Byte
  padCommandHigh : Byte
  /-- Auth sub-mode classes (R74). -/
  authLongXor : List Byte
  authLongNoXor : List Byte
  authShort : List Byte
  /-- DEAD_AIR. -/
  deadAir : Byte
  /-- REPLY_2B. -/
  reply2B : Byte
  /-- TERM_DEFAULT, the third byte of the GetTerminator reply's body. -/
  termDefault : Byte
  /-- The acknowledgment of a multitap SupportCheck (R71, R193). -/
  supportCheckReply : List Byte
  /-- The reply of a multitap Select on success, before and after the echoed index, and on failure (R71, R194). -/
  selectHead : List Byte
  selectTail : List Byte
  selectFailure : List Byte
  /-- PS1 handshake bytes in their order (R75). -/
  handshake1 : Byte
  handshake2 : Byte
  handshake3 : Byte
  handshake4 : Byte
  /-- PS1_GOOD, PS1_BAD_CHECKSUM, PS1_BAD_SECTOR (R258; 90_conflicts.md C1). -/
  ps1Good : Byte
  ps1BadChecksum : Byte
  ps1BadSector : Byte
  /-- PS1_MAX_SECTOR (R242). -/
  ps1MaxSector : Nat
  /-- RECV1_CONNECTED, RECV1_DISCONNECTED, RECV2_DEFAULT, RECV3_DEFAULT (R67). -/
  recv1Connected : Word
  recv1Disconnected : Word
  recv2Default : Word
  recv3Default : Word
  /-- SIO0 STAT bits, as masks (R63). -/
  statTxReady : Word
  statRxFifoNotEmpty : Word
  statTxEmpty : Word
  statRxParityError : Word
  statAck : Word
  statIrq : Word
  /-- SIO0 CTRL bits, as bit numbers (R64). -/
  ctrlTxEnable : Nat
  ctrlAck : Nat
  ctrlReset : Nat
  ctrlPort : Nat
  /-- SEND3 entry fields: the bit of PORT, the lowest bit and the width of CMDLEN (R66). -/
  entryPortBit : Nat
  entryLengthLow : Nat
  entryLengthWidth : Nat
  /-- Register addresses, REG_MAP (20_memory.md R44). -/
  addrSio0Data : Word
  addrSio0Stat : Word
  addrSio0Mode : Word
  addrSio0Ctrl : Word
  addrSend3 : Word
  addrSend1 : Word
  addrSend2 : Word
  addrDataIn : Word
  addrDataOut : Word
  addrSio2Ctrl : Word
  addrRecv1 : Word
  addrRecv2 : Word
  addrRecv3 : Word
  /-- Register widths in bits: TX_DATA, RX_DATA, DATA_IN, DATA_OUT; STAT; CTRL and MODE of SIO0; the other registers
  of SIO2 (10_state.md R12, R16). -/
  widthData : Nat
  widthStat : Nat
  widthSio0Ctrl : Nat
  widthSio0Mode : Nat
  widthSio2 : Nat
  /-- Interrupt lines at the IOP controller (60_exceptions.md R290, R291). -/
  irqLineSio0 : Nat
  irqLineSio2 : Nat
  deriving DecidableEq, Repr

/-- AUTO_EJECT_TICKS − 1: R272 gives the parameter no value but says that it is at least 1 (log 8). -/
opaque Config.autoEjectTicksLessOne : Nat

/-- The byte a pad answers when an operation asks it for more bytes than the operation's inputs list (R8:
"under no law"; log 3). Applied to State's `freeCount`. -/
opaque Config.padReply : Nat → Byte

/-- What `Pad.isComplete` answers in that case (R8; log 3). -/
opaque Config.padComplete : Nat → Bool

/-- The byte of a card that the block has not saved since the last erase or exchange (R41, R47; U9; log 4),
by read (`freeCount`), port, slot and byte address. -/
opaque Config.cardByte : Nat → Port → Slot → Word → Byte

/-- The reply to a byte past the end of a PS1 layout (R264, U6; log 3). -/
opaque Config.pastLayoutReply : Nat → Byte

/-- Whether the dead byte of a desynchronised SIO0 transaction is 0xFF, else it is 0x00 (R285: "depending on context";
log 14). Applied to State's `freeCount`. -/
opaque Config.desyncAnswersFF : Nat → Bool

end Sys2Proof
end

