-- ==== Sys2Proof/Machine/Codes.lean ====
section
/-! DEFINITION. The one table of numeric values: the parameters of 00_scope.md R5 as fields of `config`, and under
`Codes` what is computed from them and the numbers that R5 does not list. The spec marks most of them as general
knowledge (93_implementation_defined.md, part 2) and asks that a model keep them in one place (log 11). -/

namespace Sys2Proof

/-- The value R5 states for each parameter; AUTO_EJECT_TICKS, for which R272 states none, is opaque and positive. -/
@[simps] def config : Configuration where
  sizes := sizes
  params :=
    { autoEjectTicks := Config.autoEjectTicksLessOne + 1
      eccBytes := 16
      softresetClearsFifoOut := true
      sio0TxEnableGates := false
      sio2IrqNeedsStart := false
      writeDataTrailer := .checksum
      ps1ChecksumSeed := .zero
      padBasis := .relative }
  modePad := 0x01
  modeMultitap := 0x21
  modeInfrared := 0x61
  modeMemcard := 0x81
  mtapPadSupportCheck := 0x12
  mtapMemcardSupportCheck := 0x13
  mtapSelectPad := 0x21
  mtapSelectMemcard := 0x22
  mcProbe := 0x11
  mcSetEraseSector := 0x21
  mcSetWriteSector := 0x22
  mcSetReadSector := 0x23
  mcGetSpecs := 0x26
  mcSetTerminator := 0x27
  mcGetTerminator := 0x28
  mcWriteData := 0x42
  mcReadData := 0x43
  mcReadWriteEnd := 0x81
  mcEraseBlock := 0x82
  mcUnknownBoot := 0xBF
  mcAuthXor := 0xF0
  mcAuthF3 := 0xF3
  mcAuthF7 := 0xF7
  ps1Read := 0x52
  ps1State := 0x53
  ps1Write := 0x57
  ps1Pocketstation := 0x58
  padCommandLow := 0x40
  padCommandHigh := 0x4F
  authLongXor := [0x01, 0x02, 0x04, 0x0F, 0x11, 0x13]
  authLongNoXor := [0x06, 0x07, 0x0B]
  authShort := [0x00, 0x03, 0x05, 0x08, 0x09, 0x0A, 0x0C, 0x0D, 0x0E, 0x10, 0x12, 0x14]
  deadAir := 0x00
  reply2B := 0x2B
  termDefault := 0x55
  supportCheckReply := [0x5A, 0x04, 0x00, 0x5A]
  selectHead := [0x5A, 0x00, 0x00]
  selectTail := [0x5A]
  selectFailure := [0x5A, 0x00, 0x00, 0xFF, 0x66]
  handshake1 := 0x5A
  handshake2 := 0x5D
  handshake3 := 0x5C
  handshake4 := 0x5D
  ps1Good := 0x47
  ps1BadChecksum := 0x4E
  ps1BadSector := 0xFF
  ps1MaxSector := 0x3FF
  recv1Connected := 0x00001100
  recv1Disconnected := 0x0001D100
  recv2Default := 0x0000000F
  recv3Default := 0x00000000
  statTxReady := 0x00000001
  statRxFifoNotEmpty := 0x00000002
  statTxEmpty := 0x00000004
  statRxParityError := 0x00000008
  statAck := 0x00000080
  statIrq := 0x00000200
  ctrlTxEnable := 0
  ctrlAck := 4
  ctrlReset := 6
  ctrlPort := 13
  entryPortBit := 0
  entryLengthLow := 8
  entryLengthWidth := 9
  addrSio0Data := 0x1F801040
  addrSio0Stat := 0x1F801044
  addrSio0Mode := 0x1F801048
  addrSio0Ctrl := 0x1F80104A
  addrSend3 := 0x1F808200
  addrSend1 := 0x1F808240
  addrSend2 := 0x1F808244
  addrDataIn := 0x1F808260
  addrDataOut := 0x1F808264
  addrSio2Ctrl := 0x1F808268
  addrRecv1 := 0x1F80826C
  addrRecv2 := 0x1F808270
  addrRecv3 := 0x1F808274
  widthData := 8
  widthStat := 32
  widthSio0Ctrl := 16
  widthSio0Mode := 16
  widthSio2 := 32
  irqLineSio0 := 7
  irqLineSio2 := 17

namespace Codes

/-! ### Computed from the configuration -/

/-- IsPadCommand of R70: the bytes the pad accepts as commands on SIO0. -/
def isPadCommand (c : Byte) : Bool :=
  config.padCommandLow.toNat ≤ c.toNat && c.toNat ≤ config.padCommandHigh.toNat

/-- The five bytes a Select replies with on success, with the index echoed (R194). -/
def selectReply (index : Byte) : List Byte := config.selectHead ++ [index] ++ config.selectTail

/-- The six named bits of STAT: every other bit reads 0 always (R11). -/
def statNamed : Word :=
  config.statTxReady ||| config.statRxFifoNotEmpty ||| config.statTxEmpty ||| config.statRxParityError
    ||| config.statAck ||| config.statIrq

/-- CTRL without its ACK bit, which never reads back as 1 (R12). -/
def ctrlWithoutAck : Half := ~~~BitVec.twoPow 16 config.ctrlAck

/-- The mode bytes with a handler (R69). -/
def frameModes : List Byte := [config.modePad, config.modeMultitap, config.modeInfrared, config.modeMemcard]

/-- The mode bytes of an SIO0 transaction (R70). -/
def transactionModes : List Byte := [config.modePad, config.modeMemcard]

/-- The multitap commands (R71). -/
def mtapCommands : List Byte :=
  [config.mtapPadSupportCheck, config.mtapMemcardSupportCheck, config.mtapSelectPad, config.mtapSelectMemcard]

/-- The four PS1 commands (R70, R72). -/
def ps1Commands : List Byte := [config.ps1Read, config.ps1State, config.ps1Write, config.ps1Pocketstation]

/-- The 19 memory-card commands (R72). -/
def memcardCommands : List Byte :=
  [config.mcProbe, config.mcSetEraseSector, config.mcSetWriteSector, config.mcSetReadSector, config.mcGetSpecs,
    config.mcSetTerminator, config.mcGetTerminator, config.mcWriteData, config.mcReadData, config.mcReadWriteEnd,
    config.mcEraseBlock, config.mcUnknownBoot, config.mcAuthXor, config.mcAuthF3, config.mcAuthF7]
    ++ ps1Commands

/-- The AUTH_XOR sub-modes of the three classes (R74). -/
def authSubModes : List Byte := config.authLongXor ++ config.authLongNoXor ++ config.authShort

/-! ### Numbers that R5 does not list -/

/-- The byte an SIO0 protocol violation is answered with (R135, R138). -/
def violation : Byte := 0xFF
/-- The byte an infrared reply is filled with (R168). -/
def infraredFill : Byte := 0xFF
/-- FLAG without its directory-unread bit (R258). -/
def directoryReadMask : Byte := 0xF7
/-- START_TRANSFER of SIO2 CTRL (R65). -/
def sio2StartTransfer : Nat := 0

/-! Reset values of a slot record (10_state.md R29). -/

def termReset : Byte := 0x55
def flagReset : Byte := 0x08

/-! The masks of the indexed banks in opcode_table.json (R61): the index bits cleared. -/

def maskSend3 : Word := 0xFFFFFFC3
def maskSend12 : Word := 0xFFFFFFE7

/-! Codes of the PIN events (30_encoding.md R62). -/

def pinHardReset : BitVec 4 := 0x0
def pinDmaSetBlock : BitVec 4 := 0x1
def pinAeSet : BitVec 4 := 0x2
def pinAeClear : BitVec 4 := 0x3
def pinAeSetall : BitVec 4 := 0x4
def pinAeClearall : BitVec 4 := 0x5
def pinCheckpointLoad : BitVec 4 := 0x6

end Codes

end Sys2Proof
end

