-- ==== Sys2Proof/Machine/Block.lean ====
section
/-! DEFINITION. The state of the block, 10_state.md R10: exactly the SIO0 group (R11 to R15), the SIO2 group
(R16 to R18), the two byte queues (R19), eight slot records (R22) and the PS1 record (R24); its value after
hard reset (R29); and the image a checkpoint load installs (R30, R277). -/

namespace Sys2Proof

/-- The SIO0 state machine's stage (R14). -/
inductive Stage where
  | idle
  | waitingCommand
  | working
  deriving DecidableEq, Repr

/-- What the SIO0 transaction in progress addresses (R14); NOT_SET while the stage is IDLE. -/
inductive SioMode where
  | notSet
  | pad
  | memcard
  deriving DecidableEq, Repr

/-- The SIO0 register group (R11 to R14). -/
structure Sio0 where
  /-- STAT, bits at the places of R63. -/
  stat : Word
  /-- CTRL, bits at the places of R64. -/
  ctrl : Half
  /-- MODE; no rule reads it. -/
  mode : Half
  /-- The response byte of the last TX_DATA write. -/
  rxData : Byte
  /-- The last byte written to TX_DATA; no rule reads it. -/
  txData : Byte
  stage : Stage
  sioMode : SioMode
  /-- The latched PS1 command. -/
  command : Byte
  deriving DecidableEq, Repr

/-- The SIO2 register group (R16 to R18). -/
structure Sio2 where
  ctrl : Word
  send1 : Vector Word sizes.send1Entries
  send2 : Vector Word sizes.send2Entries
  send3 : Vector Word sizes.send3Entries
  recv1 : Word
  recv2 : Word
  recv3 : Word
  /-- The addressed physical port. -/
  port : Port
  /-- The addressed logical slot. -/
  slot : Slot
  /-- 0 to 511 (9 bits). -/
  commandLength : Nat
  /-- Bytes of one DMA block; 0 means direct writes. -/
  dmaBlockSize : Nat
  /-- 0 to 16: the SEND3 entry the next command uses. -/
  send3Position : Nat
  send3Read : Bool
  send3Complete : Bool
  deriving DecidableEq, Repr

/-- One slot record `mcd[p][s]` (R22). Its port and slot are its place in the table. -/
structure SlotRecord where
  term : Byte
  flag : Byte
  sectorAddr : Word
  transferAddr : Word
  goodSector : Bool
  autoEjectTicks : Nat
  deriving DecidableEq, Repr

/-- The PS1 transaction record (R24). -/
structure Ps1 where
  cursor : Nat
  addrMSB : Byte
  addrLSB : Byte
  checksum : Byte
  expected : Byte
  buf : Vector Byte sizes.ps1SectorBytes
  deriving DecidableEq, Repr

/-- The state of the block, all of it (R10). -/
structure Block where
  sio0 : Sio0
  sio2 : Sio2
  /-- Head first: bytes the host wrote and no handler has consumed (R19). -/
  fifoIn : List Byte
  /-- Head first: response bytes the host has not read (R19). -/
  fifoOut : List Byte
  /-- By port, then slot. -/
  mcd : SlotTable SlotRecord
  ps1 : Ps1
  deriving DecidableEq, Repr

/-- What CHECKPOINT_LOAD carries (R277): a state and the CRC64 of each card at save time. -/
structure Image where
  state : Block
  crc : SlotTable (BitVec 64)
  deriving DecidableEq, Repr

/-- The PS1 record at the start of a transaction (R24, R240). -/
def Ps1.start : Ps1 where
  cursor := 2
  addrMSB := 0
  addrLSB := 0
  checksum := 0
  expected := 0
  buf := Vector.replicate sizes.ps1SectorBytes 0

/-- A slot record after hard reset (R29). -/
def SlotRecord.reset : SlotRecord where
  term := Codes.termReset
  flag := Codes.flagReset
  sectorAddr := 0
  transferAddr := 0
  goodSector := false
  autoEjectTicks := 0

/-- The SIO0 group after hard reset (R29). -/
def Sio0.reset : Sio0 where
  stat := 0
  ctrl := 0
  mode := 0
  rxData := 0
  txData := 0
  stage := .idle
  sioMode := .notSet
  command := 0

/-- The SIO2 group after hard reset (R29). -/
def Sio2.reset : Sio2 where
  ctrl := 0
  send1 := Vector.replicate sizes.send1Entries 0
  send2 := Vector.replicate sizes.send2Entries 0
  send3 := Vector.replicate sizes.send3Entries 0
  recv1 := config.recv1Disconnected
  recv2 := config.recv2Default
  recv3 := config.recv3Default
  port := 0
  slot := 0
  commandLength := 0
  dmaBlockSize := 0
  send3Position := 0
  send3Read := false
  send3Complete := false

/-- The block after hard reset: the table of R29. -/
def Block.reset : Block where
  sio0 := Sio0.reset
  sio2 := Sio2.reset
  fifoIn := []
  fifoOut := []
  mcd := Vector.replicate sizes.nports (Vector.replicate sizes.nslots SlotRecord.reset)
  ps1 := Ps1.start

/-- SIO0.port, the view of CTRL's PORT bit (R15). -/
def Block.sio0Port (b : Block) : Port := if b.sio0.ctrl.getLsbD config.ctrlPort then 1 else 0

/-- No bit of STAT but the six named ones is set (R11). -/
def Block.statReservedClear (b : Block) : Bool := b.sio0.stat &&& ~~~Codes.statNamed == 0

/-- The ranges R17 and R18 give the two naturals of the sequencer. -/
def Block.positionInRange (b : Block) : Bool := decide (b.sio2.send3Position ≤ sizes.send3Entries)

/-- See `Block.positionInRange`. -/
def Block.lengthInRange (b : Block) : Bool := decide (b.sio2.commandLength ≤ 511)

/-- A value of the types R11, R17 and R18 give the fields (log 16). -/
def Block.wellTyped (b : Block) : Bool :=
  b.statReservedClear && b.positionInRange && b.lengthInRange

end Sys2Proof
end

