-- ==== Sys2Proof/Syntax.lean ====
section
/-! DEFINITION. The instructions: one constructor for each row of opcode_table.json, in its order. A HOST or PIN
row is one host operation; an S2F row is the host's sending of one frame to SIO2 DATA_IN and an S0F row its
sending of one transaction to SIO0 TX_DATA (R2, R68, R70; log 9). -/

namespace Sys2Proof

/-- One constructor per row of opcode_table.json. -/
inductive Instr where
  /-- WR8_SIO0.TX_DATA, R90. -/
  | wr8Sio0TxData (b : Byte)
  /-- RD8_SIO0.RX_DATA, R91. -/
  | rd8Sio0RxData
  /-- RD32_SIO0.STAT, R92. -/
  | rd32Sio0Stat
  /-- WR32_SIO0.STAT, R93. -/
  | wr32Sio0Stat (v : Word)
  /-- WR16_SIO0.CTRL, R94. -/
  | wr16Sio0Ctrl (v : Half)
  /-- RD16_SIO0.CTRL, R95. -/
  | rd16Sio0Ctrl
  /-- WR16_SIO0.MODE, R96. -/
  | wr16Sio0Mode (v : Half)
  /-- RD16_SIO0.MODE, R97. -/
  | rd16Sio0Mode
  /-- WR32_SIO2.SEND3_i, R100. -/
  | wr32Sio2Send3 (i : Fin sizes.send3Entries) (w : Word)
  /-- RD32_SIO2.SEND3_i, R101. -/
  | rd32Sio2Send3 (i : Fin sizes.send3Entries)
  /-- WR32_SIO2.SEND1_i, R102. -/
  | wr32Sio2Send1 (i : Fin sizes.send1Entries) (w : Word)
  /-- RD32_SIO2.SEND1_i, R103. -/
  | rd32Sio2Send1 (i : Fin sizes.send1Entries)
  /-- WR32_SIO2.SEND2_i, R102. -/
  | wr32Sio2Send2 (i : Fin sizes.send2Entries) (w : Word)
  /-- RD32_SIO2.SEND2_i, R103. -/
  | rd32Sio2Send2 (i : Fin sizes.send2Entries)
  /-- WR8_SIO2.DATA_IN, R104. -/
  | wr8Sio2DataIn (b : Byte)
  /-- RD8_SIO2.DATA_OUT, R105. -/
  | rd8Sio2DataOut
  /-- WR32_SIO2.CTRL, R106. -/
  | wr32Sio2Ctrl (v : Word)
  /-- RD32_SIO2.CTRL, R107. -/
  | rd32Sio2Ctrl
  /-- RD32_SIO2.RECV1, R108. -/
  | rd32Sio2Recv1
  /-- WR32_SIO2.RECV1, R109. -/
  | wr32Sio2Recv1 (v : Word)
  /-- RD32_SIO2.RECV2, R108. -/
  | rd32Sio2Recv2
  /-- WR32_SIO2.RECV2, R109. -/
  | wr32Sio2Recv2 (v : Word)
  /-- RD32_SIO2.RECV3, R108. -/
  | rd32Sio2Recv3
  /-- WR32_SIO2.RECV3, R109. -/
  | wr32Sio2Recv3 (v : Word)
  /-- PIN_HARD_RESET, R310. -/
  | pinHardReset
  /-- PIN_DMA_SET_BLOCK, R110. -/
  | pinDmaSetBlock (size : Nat)
  /-- PIN_AE_SET, R273. -/
  | pinAeSet (p : Port) (q : Slot)
  /-- PIN_AE_CLEAR, R274. -/
  | pinAeClear (p : Port) (q : Slot)
  /-- PIN_AE_SETALL, R275. -/
  | pinAeSetall
  /-- PIN_AE_CLEARALL, R276. -/
  | pinAeClearall
  /-- PIN_CHECKPOINT_LOAD, R277. -/
  | pinCheckpointLoad (image : Image)
  /-- S2.PAD, R166. -/
  | s2Pad (rest : List Byte)
  /-- S2.MTAP_DISABLED, R190. -/
  | s2MtapDisabled (rest : List Byte)
  /-- MTAP.PAD_SUPPORT_CHECK, R193. -/
  | mtapPadSupportCheck (rest : List Byte)
  /-- MTAP.MEMCARD_SUPPORT_CHECK, R193. -/
  | mtapMemcardSupportCheck (rest : List Byte)
  /-- MTAP.SELECT_PAD, R194. -/
  | mtapSelectPad (i : Byte) (rest : List Byte)
  /-- MTAP.SELECT_MEMCARD, R194. -/
  | mtapSelectMemcard (i : Byte) (rest : List Byte)
  /-- MTAP.UNKNOWN, R196. -/
  | mtapUnknown (c : Byte) (rest : List Byte)
  /-- S2.INFRARED, R168. -/
  | s2Infrared (x : Byte) (rest : List Byte)
  /-- S2.UNKNOWN_MODE, R169. -/
  | s2UnknownMode (m : Byte) (rest : List Byte)
  /-- MC.PROBE, R206. -/
  | mcProbe (rest : List Byte)
  /-- MC.SET_ERASE_SECTOR, R210. -/
  | mcSetEraseSector (a : Byte) (b : Byte) (c : Byte) (d : Byte) (k : Byte) (rest : List Byte)
  /-- MC.SET_WRITE_SECTOR, R210. -/
  | mcSetWriteSector (a : Byte) (b : Byte) (c : Byte) (d : Byte) (k : Byte) (rest : List Byte)
  /-- MC.SET_READ_SECTOR, R210. -/
  | mcSetReadSector (a : Byte) (b : Byte) (c : Byte) (d : Byte) (k : Byte) (rest : List Byte)
  /-- MC.GET_SPECS, R212. -/
  | mcGetSpecs (rest : List Byte)
  /-- MC.SET_TERMINATOR, R214. -/
  | mcSetTerminator (t : Byte) (rest : List Byte)
  /-- MC.GET_TERMINATOR, R216. -/
  | mcGetTerminator (rest : List Byte)
  /-- MC.WRITE_DATA, R218. -/
  | mcWriteData (l : Byte) (rest : List Byte)
  /-- MC.READ_DATA, R220. -/
  | mcReadData (l : Byte) (rest : List Byte)
  /-- MC.PS1_READ, R244. -/
  | mcPs1Read (rest : List Byte)
  /-- MC.PS1_STATE, R260. -/
  | mcPs1State (rest : List Byte)
  /-- MC.PS1_WRITE, R252. -/
  | mcPs1Write (rest : List Byte)
  /-- MC.PS1_POCKETSTATION, R262. -/
  | mcPs1Pocketstation (rest : List Byte)
  /-- MC.READ_WRITE_END, R222. -/
  | mcReadWriteEnd (rest : List Byte)
  /-- MC.ERASE_BLOCK, R224. -/
  | mcEraseBlock (rest : List Byte)
  /-- MC.UNKNOWN_BOOT, R225. -/
  | mcUnknownBoot (rest : List Byte)
  /-- MC.AUTH_XOR.00, R228. -/
  | mcAuthXor00 (rest : List Byte)
  /-- MC.AUTH_XOR.01, R227. -/
  | mcAuthXor01 (rest : List Byte)
  /-- MC.AUTH_XOR.02, R227. -/
  | mcAuthXor02 (rest : List Byte)
  /-- MC.AUTH_XOR.03, R228. -/
  | mcAuthXor03 (rest : List Byte)
  /-- MC.AUTH_XOR.04, R227. -/
  | mcAuthXor04 (rest : List Byte)
  /-- MC.AUTH_XOR.05, R228. -/
  | mcAuthXor05 (rest : List Byte)
  /-- MC.AUTH_XOR.06, R229. -/
  | mcAuthXor06 (rest : List Byte)
  /-- MC.AUTH_XOR.07, R229. -/
  | mcAuthXor07 (rest : List Byte)
  /-- MC.AUTH_XOR.08, R228. -/
  | mcAuthXor08 (rest : List Byte)
  /-- MC.AUTH_XOR.09, R228. -/
  | mcAuthXor09 (rest : List Byte)
  /-- MC.AUTH_XOR.0A, R228. -/
  | mcAuthXor0A (rest : List Byte)
  /-- MC.AUTH_XOR.0B, R229. -/
  | mcAuthXor0B (rest : List Byte)
  /-- MC.AUTH_XOR.0C, R228. -/
  | mcAuthXor0C (rest : List Byte)
  /-- MC.AUTH_XOR.0D, R228. -/
  | mcAuthXor0D (rest : List Byte)
  /-- MC.AUTH_XOR.0E, R228. -/
  | mcAuthXor0E (rest : List Byte)
  /-- MC.AUTH_XOR.0F, R227. -/
  | mcAuthXor0F (rest : List Byte)
  /-- MC.AUTH_XOR.10, R228. -/
  | mcAuthXor10 (rest : List Byte)
  /-- MC.AUTH_XOR.11, R227. -/
  | mcAuthXor11 (rest : List Byte)
  /-- MC.AUTH_XOR.12, R228. -/
  | mcAuthXor12 (rest : List Byte)
  /-- MC.AUTH_XOR.13, R227. -/
  | mcAuthXor13 (rest : List Byte)
  /-- MC.AUTH_XOR.14, R228. -/
  | mcAuthXor14 (rest : List Byte)
  /-- MC.AUTH_XOR.UNKNOWN, R231. -/
  | mcAuthXorUnknown (sub : Byte) (rest : List Byte)
  /-- MC.AUTH_F3, R230. -/
  | mcAuthF3 (rest : List Byte)
  /-- MC.AUTH_F7, R230. -/
  | mcAuthF7 (rest : List Byte)
  /-- MC.UNKNOWN, R232. -/
  | mcUnknown (c : Byte) (rest : List Byte)
  /-- S0.PAD, R134. -/
  | s0Pad (c : BitVec 4) (rest : List Byte)
  /-- S0.PAD_UNKNOWN, R135. -/
  | s0PadUnknown (c : Byte)
  /-- S0.PS1_READ, R244. -/
  | s0Ps1Read (rest : List Byte)
  /-- S0.PS1_STATE, R260. -/
  | s0Ps1State (rest : List Byte)
  /-- S0.PS1_WRITE, R252. -/
  | s0Ps1Write (rest : List Byte)
  /-- S0.PS1_POCKETSTATION, R137. -/
  | s0Ps1Pocketstation
  /-- S0.MEMCARD_UNKNOWN, R138. -/
  | s0MemcardUnknown (c : Byte)
  /-- S0.UNKNOWN_MODE, R133. -/
  | s0UnknownMode (m : Byte)
  deriving DecidableEq, Repr

/-- What the first byte of an SIO2 frame selects (R69). -/
inductive FrameMode where
  | pad
  | multitap
  | infrared
  | memcard
  | unknown
  deriving DecidableEq, Repr

/-- What the second byte of a multitap frame selects (R71). -/
inductive MtapCommand where
  | padSupportCheck
  | memcardSupportCheck
  | selectPad
  | selectMemcard
  | unknown
  deriving DecidableEq, Repr

/-- What the second byte of a memory-card frame selects (R72). -/
inductive McCommand where
  | probe
  | setEraseSector
  | setWriteSector
  | setReadSector
  | getSpecs
  | setTerminator
  | getTerminator
  | writeData
  | readData
  | ps1Read
  | ps1State
  | ps1Write
  | ps1Pocketstation
  | readWriteEnd
  | eraseBlock
  | unknownBoot
  | authXor
  | authF3
  | authF7
  | unknown
  deriving DecidableEq, Repr

/-- The class of an AUTH_XOR sub-mode (R74). -/
inductive AuthClass where
  | longXor
  | short
  | longNoXor
  | unknown
  deriving DecidableEq, Repr

/-- What the command byte of an SIO0 memory-card transaction selects (R70, R136 to R138). -/
inductive Ps1Command where
  | read
  | state
  | write
  | pocketstation
  | unknown
  deriving DecidableEq, Repr

/-- A register of the host's address map (R44). -/
inductive Reg where
  /-- TX_DATA when written, RX_DATA when read. -/
  | sio0Data
  | sio0Stat
  | sio0Mode
  | sio0Ctrl
  | send3 (i : Fin sizes.send3Entries)
  | send1 (i : Fin sizes.send1Entries)
  | send2 (i : Fin sizes.send2Entries)
  | dataIn
  | dataOut
  | sio2Ctrl
  | recv1
  | recv2
  | recv3
  deriving DecidableEq, Repr

end Sys2Proof
end

