-- ==== Sys2Proof/WellFormed.lean ====
section
/-! DEFINITION. Which terms of `Instr` are instructions: an "unknown" row holds a byte that its row's condition
admits (opcode_table.json, `fields.condition`), and a checkpoint image is a value of the types 10_state.md
gives the fields (R277; log 16). Nothing is asked of a frame's length: a frame shorter than its command's
"min n" is an encoding too, whose handler may or may not come to need the missing bytes (R7). -/

namespace Sys2Proof

/-- The instruction's operands are what its row's condition admits. -/
def Instr.wf : Instr → Bool
  | .wr8Sio0TxData _ => true
  | .rd8Sio0RxData => true
  | .rd32Sio0Stat => true
  | .wr32Sio0Stat _ => true
  | .wr16Sio0Ctrl _ => true
  | .rd16Sio0Ctrl => true
  | .wr16Sio0Mode _ => true
  | .rd16Sio0Mode => true
  | .wr32Sio2Send3 _ _ => true
  | .rd32Sio2Send3 _ => true
  | .wr32Sio2Send1 _ _ => true
  | .rd32Sio2Send1 _ => true
  | .wr32Sio2Send2 _ _ => true
  | .rd32Sio2Send2 _ => true
  | .wr8Sio2DataIn _ => true
  | .rd8Sio2DataOut => true
  | .wr32Sio2Ctrl _ => true
  | .rd32Sio2Ctrl => true
  | .rd32Sio2Recv1 => true
  | .wr32Sio2Recv1 _ => true
  | .rd32Sio2Recv2 => true
  | .wr32Sio2Recv2 _ => true
  | .rd32Sio2Recv3 => true
  | .wr32Sio2Recv3 _ => true
  | .pinHardReset => true
  | .pinDmaSetBlock _ => true
  | .pinAeSet _ _ => true
  | .pinAeClear _ _ => true
  | .pinAeSetall => true
  | .pinAeClearall => true
  | .pinCheckpointLoad image => image.state.wellTyped
  | .s2Pad _ => true
  | .s2MtapDisabled _ => true
  | .mtapPadSupportCheck _ => true
  | .mtapMemcardSupportCheck _ => true
  | .mtapSelectPad _ _ => true
  | .mtapSelectMemcard _ _ => true
  | .mtapUnknown c _ => !Codes.mtapCommands.contains c
  | .s2Infrared _ _ => true
  | .s2UnknownMode m _ => !Codes.frameModes.contains m
  | .mcProbe _ => true
  | .mcSetEraseSector _ _ _ _ _ _ => true
  | .mcSetWriteSector _ _ _ _ _ _ => true
  | .mcSetReadSector _ _ _ _ _ _ => true
  | .mcGetSpecs _ => true
  | .mcSetTerminator _ _ => true
  | .mcGetTerminator _ => true
  | .mcWriteData _ _ => true
  | .mcReadData _ _ => true
  | .mcPs1Read _ => true
  | .mcPs1State _ => true
  | .mcPs1Write _ => true
  | .mcPs1Pocketstation _ => true
  | .mcReadWriteEnd _ => true
  | .mcEraseBlock _ => true
  | .mcUnknownBoot _ => true
  | .mcAuthXor00 _ => true
  | .mcAuthXor01 _ => true
  | .mcAuthXor02 _ => true
  | .mcAuthXor03 _ => true
  | .mcAuthXor04 _ => true
  | .mcAuthXor05 _ => true
  | .mcAuthXor06 _ => true
  | .mcAuthXor07 _ => true
  | .mcAuthXor08 _ => true
  | .mcAuthXor09 _ => true
  | .mcAuthXor0A _ => true
  | .mcAuthXor0B _ => true
  | .mcAuthXor0C _ => true
  | .mcAuthXor0D _ => true
  | .mcAuthXor0E _ => true
  | .mcAuthXor0F _ => true
  | .mcAuthXor10 _ => true
  | .mcAuthXor11 _ => true
  | .mcAuthXor12 _ => true
  | .mcAuthXor13 _ => true
  | .mcAuthXor14 _ => true
  | .mcAuthXorUnknown sub _ => !Codes.authSubModes.contains sub
  | .mcAuthF3 _ => true
  | .mcAuthF7 _ => true
  | .mcUnknown c _ => !Codes.memcardCommands.contains c
  | .s0Pad _ _ => true
  | .s0PadUnknown c => !Codes.isPadCommand c
  | .s0Ps1Read _ => true
  | .s0Ps1State _ => true
  | .s0Ps1Write _ => true
  | .s0Ps1Pocketstation => true
  | .s0MemcardUnknown c => !Codes.ps1Commands.contains c
  | .s0UnknownMode m => !Codes.transactionModes.contains m

end Sys2Proof
end

