-- ==== Sys2Proof/Decode.lean ====
section
/-! DEFINITION. What the host puts at the block's boundary (`Packet`), its decoding into an instruction, total and
rejecting by name, and the encoder, both from 20_memory.md R44 and 30_encoding.md R61 to R74. The
classifications of mode and command bytes are here once: the machine's dispatch uses the same ones. -/

namespace Sys2Proof

/-- One packet of the host's stream, before decoding. -/
inductive Packet where
  /-- A read access of `width` bits. -/
  | read (addr : Word) (width : Nat)
  /-- A write access of `width` bits. -/
  | write (addr : Word) (width : Nat) (value : Word)
  /-- A control input: its 4-bit code, its numeric arguments, its image. -/
  | pin (code : BitVec 4) (args : List Nat) (image : Option Image)
  /-- The bytes of one SIO2 frame, first sent first. -/
  | frame (bytes : List Byte)
  /-- The bytes of one SIO0 transaction, first sent first. -/
  | transaction (bytes : List Byte)
  deriving DecidableEq, Repr

/-- Why a packet is no instruction. All safe: the model stops where the spec gives no step. -/
inductive DecodeError where
  /-- The address is no register of the block (U1, R45). -/
  | noRegister
  /-- The access is not at the register's width (U1, R43). -/
  | wrongWidth
  /-- A read of DATA_IN or a write of DATA_OUT: R44 gives each one direction (U1). -/
  | wrongDirection
  /-- The value does not fit the access (no bus carries it). -/
  | valueTooWide
  /-- A PIN code R62 does not list. -/
  | noSuchPin
  /-- Not the arguments R62 lists for the code. -/
  | pinArguments
  /-- AE_SET or AE_CLEAR with port > 1 or slot > 3 (U7, R273). -/
  | slotOutOfRange
  /-- A checkpoint image that is no value of the types of 10_state.md (R277; log 16). -/
  | imageIllTyped
  /-- Fewer bytes than the fixed-position bytes of every row the first ones admit (R79). -/
  | patternTooShort
  /-- Bytes after the end of a transaction that ended (R70). -/
  | pastTransaction
  deriving DecidableEq, Repr

/-! ### Registers -/

/-- The register an address names (R44, with the masks of opcode_table.json for the indexed banks). -/
def regAt (a : Word) : Option Reg :=
  if a = config.addrSio0Data then some .sio0Data
  else if a = config.addrSio0Stat then some .sio0Stat
  else if a = config.addrSio0Mode then some .sio0Mode
  else if a = config.addrSio0Ctrl then some .sio0Ctrl
  else if a &&& Codes.maskSend3 = config.addrSend3 then some (.send3 (a.extractLsb' 2 4).toFin)
  else if a &&& Codes.maskSend12 = config.addrSend1 then some (.send1 (a.extractLsb' 3 2).toFin)
  else if a &&& Codes.maskSend12 = config.addrSend2 then some (.send2 (a.extractLsb' 3 2).toFin)
  else if a = config.addrDataIn then some .dataIn
  else if a = config.addrDataOut then some .dataOut
  else if a = config.addrSio2Ctrl then some .sio2Ctrl
  else if a = config.addrRecv1 then some .recv1
  else if a = config.addrRecv2 then some .recv2
  else if a = config.addrRecv3 then some .recv3
  else none

/-- The address of a register (R44). -/
def Reg.addr : Reg → Word
  | .sio0Data => config.addrSio0Data
  | .sio0Stat => config.addrSio0Stat
  | .sio0Mode => config.addrSio0Mode
  | .sio0Ctrl => config.addrSio0Ctrl
  | .send3 i => config.addrSend3 + BitVec.ofNat 32 (4 * i.val)
  | .send1 i => config.addrSend1 + BitVec.ofNat 32 (8 * i.val)
  | .send2 i => config.addrSend2 + BitVec.ofNat 32 (8 * i.val)
  | .dataIn => config.addrDataIn
  | .dataOut => config.addrDataOut
  | .sio2Ctrl => config.addrSio2Ctrl
  | .recv1 => config.addrRecv1
  | .recv2 => config.addrRecv2
  | .recv3 => config.addrRecv3

/-- The width of a register's accesses in bits (R43, R44). -/
def Reg.width : Reg → Nat
  | .sio0Data => config.widthData
  | .sio0Stat => config.widthStat
  | .sio0Mode => config.widthSio0Mode
  | .sio0Ctrl => config.widthSio0Ctrl
  | .send3 _ => config.widthSio2
  | .send1 _ => config.widthSio2
  | .send2 _ => config.widthSio2
  | .dataIn => config.widthData
  | .dataOut => config.widthData
  | .sio2Ctrl => config.widthSio2
  | .recv1 => config.widthSio2
  | .recv2 => config.widthSio2
  | .recv3 => config.widthSio2

/-- The instruction a read of a register is. -/
def readInstr : Reg → Except DecodeError Instr
  | .sio0Data => .ok .rd8Sio0RxData
  | .sio0Stat => .ok .rd32Sio0Stat
  | .sio0Mode => .ok .rd16Sio0Mode
  | .sio0Ctrl => .ok .rd16Sio0Ctrl
  | .send3 i => .ok (.rd32Sio2Send3 i)
  | .send1 i => .ok (.rd32Sio2Send1 i)
  | .send2 i => .ok (.rd32Sio2Send2 i)
  | .dataIn => .error .wrongDirection
  | .dataOut => .ok .rd8Sio2DataOut
  | .sio2Ctrl => .ok .rd32Sio2Ctrl
  | .recv1 => .ok .rd32Sio2Recv1
  | .recv2 => .ok .rd32Sio2Recv2
  | .recv3 => .ok .rd32Sio2Recv3

/-- The instruction a write of a value to a register is. -/
def writeInstr (value : Word) : Reg → Except DecodeError Instr
  | .sio0Data => .ok (.wr8Sio0TxData (value.setWidth 8))
  | .sio0Stat => .ok (.wr32Sio0Stat value)
  | .sio0Mode => .ok (.wr16Sio0Mode (value.setWidth 16))
  | .sio0Ctrl => .ok (.wr16Sio0Ctrl (value.setWidth 16))
  | .send3 i => .ok (.wr32Sio2Send3 i value)
  | .send1 i => .ok (.wr32Sio2Send1 i value)
  | .send2 i => .ok (.wr32Sio2Send2 i value)
  | .dataIn => .ok (.wr8Sio2DataIn (value.setWidth 8))
  | .dataOut => .error .wrongDirection
  | .sio2Ctrl => .ok (.wr32Sio2Ctrl value)
  | .recv1 => .ok (.wr32Sio2Recv1 value)
  | .recv2 => .ok (.wr32Sio2Recv2 value)
  | .recv3 => .ok (.wr32Sio2Recv3 value)

/-- A read access (R61). -/
def decodeRead (a : Word) (width : Nat) : Except DecodeError Instr :=
  match regAt a with
  | none => .error .noRegister
  | some r => if width = r.width then readInstr r else .error .wrongWidth

/-- A write access (R61). -/
def decodeWrite (a : Word) (width : Nat) (value : Word) : Except DecodeError Instr :=
  match regAt a with
  | none => .error .noRegister
  | some r =>
    if width ≠ r.width then .error .wrongWidth
    else if 2 ^ width ≤ value.toNat then .error .valueTooWide
    else writeInstr value r

/-! ### Control inputs -/

/-- The two arguments of AE_SET and AE_CLEAR (R273, R274). -/
def decodeSlot (mk : Port → Slot → Instr) : List Nat → Except DecodeError Instr
  | [p, q] => if h : p < sizes.nports ∧ q < sizes.nslots then .ok (mk ⟨p, h.1⟩ ⟨q, h.2⟩) else .error .slotOutOfRange
  | _ => .error .pinArguments

/-- An event that takes no argument. -/
def decodeNoArgs (i : Instr) : List Nat → Except DecodeError Instr
  | [] => .ok i
  | _ => .error .pinArguments

/-- A control input without an image (R62). -/
def decodePin (code : BitVec 4) (args : List Nat) : Except DecodeError Instr :=
  if code = Codes.pinHardReset then decodeNoArgs .pinHardReset args
  else if code = Codes.pinDmaSetBlock then
    match args with
    | [size] => .ok (.pinDmaSetBlock size)
    | _ => .error .pinArguments
  else if code = Codes.pinAeSet then decodeSlot .pinAeSet args
  else if code = Codes.pinAeClear then decodeSlot .pinAeClear args
  else if code = Codes.pinAeSetall then decodeNoArgs .pinAeSetall args
  else if code = Codes.pinAeClearall then decodeNoArgs .pinAeClearall args
  else if code = Codes.pinCheckpointLoad then .error .pinArguments
  else .error .noSuchPin

/-- A control input with an image: CHECKPOINT_LOAD alone (R277). -/
def decodeImage (code : BitVec 4) (args : List Nat) (image : Image) : Except DecodeError Instr :=
  if code = Codes.pinCheckpointLoad then
    match args with
    | [] => if image.state.wellTyped then .ok (.pinCheckpointLoad image) else .error .imageIllTyped
    | _ => .error .pinArguments
  else .error .pinArguments

/-! ### Mode and command bytes -/

/-- R69. -/
def frameModeOf (m : Byte) : FrameMode :=
  if m = config.modePad then .pad
  else if m = config.modeMultitap then .multitap
  else if m = config.modeInfrared then .infrared
  else if m = config.modeMemcard then .memcard
  else .unknown

/-- R71. -/
def mtapCommandOf (c : Byte) : MtapCommand :=
  if c = config.mtapPadSupportCheck then .padSupportCheck
  else if c = config.mtapMemcardSupportCheck then .memcardSupportCheck
  else if c = config.mtapSelectPad then .selectPad
  else if c = config.mtapSelectMemcard then .selectMemcard
  else .unknown

/-- R72. -/
def mcCommandOf (c : Byte) : McCommand :=
  if c = config.mcProbe then .probe
  else if c = config.mcSetEraseSector then .setEraseSector
  else if c = config.mcSetWriteSector then .setWriteSector
  else if c = config.mcSetReadSector then .setReadSector
  else if c = config.mcGetSpecs then .getSpecs
  else if c = config.mcSetTerminator then .setTerminator
  else if c = config.mcGetTerminator then .getTerminator
  else if c = config.mcWriteData then .writeData
  else if c = config.mcReadData then .readData
  else if c = config.ps1Read then .ps1Read
  else if c = config.ps1State then .ps1State
  else if c = config.ps1Write then .ps1Write
  else if c = config.ps1Pocketstation then .ps1Pocketstation
  else if c = config.mcReadWriteEnd then .readWriteEnd
  else if c = config.mcEraseBlock then .eraseBlock
  else if c = config.mcUnknownBoot then .unknownBoot
  else if c = config.mcAuthXor then .authXor
  else if c = config.mcAuthF3 then .authF3
  else if c = config.mcAuthF7 then .authF7
  else .unknown

/-- R74: the three classes cover 0x00 to 0x14 once each. -/
def authClassOf (sub : Byte) : AuthClass :=
  if config.authLongXor.contains sub then .longXor
  else if config.authLongNoXor.contains sub then .longNoXor
  else if config.authShort.contains sub then .short
  else .unknown

/-- R136 to R138. -/
def ps1CommandOf (c : Byte) : Ps1Command :=
  if c = config.ps1Read then .read
  else if c = config.ps1State then .state
  else if c = config.ps1Write then .write
  else if c = config.ps1Pocketstation then .pocketstation
  else .unknown

/-- The pad command byte 0x4c whose low nibble is c (R70). -/
def padCommandByte (c : BitVec 4) : Byte := config.padCommandLow + c.setWidth 8

/-! ### Frames and transactions -/

/-- The AUTH_XOR row of a sub-mode (R74). -/
def authInstr (sub : Byte) (rest : List Byte) : Instr :=
  match sub.toNat with
  | 0x00 => .mcAuthXor00 rest
  | 0x01 => .mcAuthXor01 rest
  | 0x02 => .mcAuthXor02 rest
  | 0x03 => .mcAuthXor03 rest
  | 0x04 => .mcAuthXor04 rest
  | 0x05 => .mcAuthXor05 rest
  | 0x06 => .mcAuthXor06 rest
  | 0x07 => .mcAuthXor07 rest
  | 0x08 => .mcAuthXor08 rest
  | 0x09 => .mcAuthXor09 rest
  | 0x0A => .mcAuthXor0A rest
  | 0x0B => .mcAuthXor0B rest
  | 0x0C => .mcAuthXor0C rest
  | 0x0D => .mcAuthXor0D rest
  | 0x0E => .mcAuthXor0E rest
  | 0x0F => .mcAuthXor0F rest
  | 0x10 => .mcAuthXor10 rest
  | 0x11 => .mcAuthXor11 rest
  | 0x12 => .mcAuthXor12 rest
  | 0x13 => .mcAuthXor13 rest
  | 0x14 => .mcAuthXor14 rest
  | _ => .mcAuthXorUnknown sub rest

/-- The bytes of a memory-card frame after the mode byte (R72). -/
def decodeMemcard (c : Byte) (bytes : List Byte) : Except DecodeError Instr :=
  match mcCommandOf c, bytes with
  | .probe, rest => .ok (.mcProbe rest)
  | .setEraseSector, a :: b :: c :: d :: k :: rest => .ok (.mcSetEraseSector a b c d k rest)
  | .setEraseSector, _ => .error .patternTooShort
  | .setWriteSector, a :: b :: c :: d :: k :: rest => .ok (.mcSetWriteSector a b c d k rest)
  | .setWriteSector, _ => .error .patternTooShort
  | .setReadSector, a :: b :: c :: d :: k :: rest => .ok (.mcSetReadSector a b c d k rest)
  | .setReadSector, _ => .error .patternTooShort
  | .getSpecs, rest => .ok (.mcGetSpecs rest)
  | .setTerminator, t :: rest => .ok (.mcSetTerminator t rest)
  | .setTerminator, [] => .error .patternTooShort
  | .getTerminator, rest => .ok (.mcGetTerminator rest)
  | .writeData, l :: rest => .ok (.mcWriteData l rest)
  | .writeData, [] => .error .patternTooShort
  | .readData, l :: rest => .ok (.mcReadData l rest)
  | .readData, [] => .error .patternTooShort
  | .ps1Read, rest => .ok (.mcPs1Read rest)
  | .ps1State, rest => .ok (.mcPs1State rest)
  | .ps1Write, rest => .ok (.mcPs1Write rest)
  | .ps1Pocketstation, rest => .ok (.mcPs1Pocketstation rest)
  | .readWriteEnd, rest => .ok (.mcReadWriteEnd rest)
  | .eraseBlock, rest => .ok (.mcEraseBlock rest)
  | .unknownBoot, rest => .ok (.mcUnknownBoot rest)
  | .authXor, sub :: rest => .ok (authInstr sub rest)
  | .authXor, [] => .error .patternTooShort
  | .authF3, rest => .ok (.mcAuthF3 rest)
  | .authF7, rest => .ok (.mcAuthF7 rest)
  | .unknown, rest => .ok (.mcUnknown c rest)

/-- The bytes of a multitap frame after the mode byte, on an enabled port (R71). -/
def decodeMultitap (c : Byte) (bytes : List Byte) : Except DecodeError Instr :=
  match mtapCommandOf c, bytes with
  | .padSupportCheck, rest => .ok (.mtapPadSupportCheck rest)
  | .memcardSupportCheck, rest => .ok (.mtapMemcardSupportCheck rest)
  | .selectPad, i :: rest => .ok (.mtapSelectPad i rest)
  | .selectPad, [] => .error .patternTooShort
  | .selectMemcard, i :: rest => .ok (.mtapSelectMemcard i rest)
  | .selectMemcard, [] => .error .patternTooShort
  | .unknown, rest => .ok (.mtapUnknown c rest)

/-- A frame (R68, R69). `multitap` is the enable switch of the port the frame addresses: which row a multitap
frame is depends on it (R79, R190). -/
def decodeFrame (multitap : Bool) : List Byte → Except DecodeError Instr
  | [] => .error .patternTooShort
  | m :: bytes =>
    match frameModeOf m with
    | .pad => .ok (.s2Pad bytes)
    | .multitap =>
      if multitap then
        match bytes with
        | [] => .error .patternTooShort
        | c :: rest => decodeMultitap c rest
      else .ok (.s2MtapDisabled bytes)
    | .infrared =>
      match bytes with
      | [] => .error .patternTooShort
      | x :: rest => .ok (.s2Infrared x rest)
    | .memcard =>
      match bytes with
      | [] => .error .patternTooShort
      | c :: rest => decodeMemcard c rest
    | .unknown => .ok (.s2UnknownMode m bytes)

/-- A transaction that ends with this byte carries no more (R70). -/
def endsHere (i : Instr) : List Byte → Except DecodeError Instr
  | [] => .ok i
  | _ => .error .pastTransaction

/-- A transaction (R70). -/
def decodeTransaction : List Byte → Except DecodeError Instr
  | [] => .error .patternTooShort
  | m :: bytes =>
    if m = config.modePad then
      match bytes with
      | [] => .error .patternTooShort
      | c :: rest =>
        if Codes.isPadCommand c then .ok (.s0Pad (c.setWidth 4) rest) else endsHere (.s0PadUnknown c) rest
    else if m = config.modeMemcard then
      match bytes with
      | [] => .error .patternTooShort
      | c :: rest =>
        match ps1CommandOf c with
        | .read => .ok (.s0Ps1Read rest)
        | .state => .ok (.s0Ps1State rest)
        | .write => .ok (.s0Ps1Write rest)
        | .pocketstation => endsHere .s0Ps1Pocketstation rest
        | .unknown => endsHere (.s0MemcardUnknown c) rest
    else endsHere (.s0UnknownMode m) bytes

/-- The decoder: total, rejecting by name. -/
def decode (multitap : Bool) : Packet → Except DecodeError Instr
  | .read a width => decodeRead a width
  | .write a width value => decodeWrite a width value
  | .pin code args none => decodePin code args
  | .pin code args (some image) => decodeImage code args image
  | .frame bytes => decodeFrame multitap bytes
  | .transaction bytes => decodeTransaction bytes

/-! ### The encoder -/

/-- A read of a register. -/
def encodeRead (r : Reg) : Packet := .read r.addr r.width

/-- A write of a value to a register, zero-extended to the bus. -/
def encodeWrite (r : Reg) (value : Word) : Packet := .write r.addr r.width value

/-- The packet of an instruction, from the same tables. -/
def encode : Instr → Packet
  | .wr8Sio0TxData b => encodeWrite .sio0Data (b.setWidth 32)
  | .rd8Sio0RxData => encodeRead .sio0Data
  | .rd32Sio0Stat => encodeRead .sio0Stat
  | .wr32Sio0Stat v => encodeWrite .sio0Stat v
  | .wr16Sio0Ctrl v => encodeWrite .sio0Ctrl (v.setWidth 32)
  | .rd16Sio0Ctrl => encodeRead .sio0Ctrl
  | .wr16Sio0Mode v => encodeWrite .sio0Mode (v.setWidth 32)
  | .rd16Sio0Mode => encodeRead .sio0Mode
  | .wr32Sio2Send3 i w => encodeWrite (.send3 i) w
  | .rd32Sio2Send3 i => encodeRead (.send3 i)
  | .wr32Sio2Send1 i w => encodeWrite (.send1 i) w
  | .rd32Sio2Send1 i => encodeRead (.send1 i)
  | .wr32Sio2Send2 i w => encodeWrite (.send2 i) w
  | .rd32Sio2Send2 i => encodeRead (.send2 i)
  | .wr8Sio2DataIn b => encodeWrite .dataIn (b.setWidth 32)
  | .rd8Sio2DataOut => encodeRead .dataOut
  | .wr32Sio2Ctrl v => encodeWrite .sio2Ctrl v
  | .rd32Sio2Ctrl => encodeRead .sio2Ctrl
  | .rd32Sio2Recv1 => encodeRead .recv1
  | .wr32Sio2Recv1 v => encodeWrite .recv1 v
  | .rd32Sio2Recv2 => encodeRead .recv2
  | .wr32Sio2Recv2 v => encodeWrite .recv2 v
  | .rd32Sio2Recv3 => encodeRead .recv3
  | .wr32Sio2Recv3 v => encodeWrite .recv3 v
  | .pinHardReset => .pin Codes.pinHardReset [] none
  | .pinDmaSetBlock size => .pin Codes.pinDmaSetBlock [size] none
  | .pinAeSet p q => .pin Codes.pinAeSet [p.val, q.val] none
  | .pinAeClear p q => .pin Codes.pinAeClear [p.val, q.val] none
  | .pinAeSetall => .pin Codes.pinAeSetall [] none
  | .pinAeClearall => .pin Codes.pinAeClearall [] none
  | .pinCheckpointLoad image => .pin Codes.pinCheckpointLoad [] (some image)
  | .s2Pad rest => .frame (config.modePad :: rest)
  | .s2MtapDisabled rest => .frame (config.modeMultitap :: rest)
  | .mtapPadSupportCheck rest => .frame (config.modeMultitap :: config.mtapPadSupportCheck :: rest)
  | .mtapMemcardSupportCheck rest => .frame (config.modeMultitap :: config.mtapMemcardSupportCheck :: rest)
  | .mtapSelectPad i rest => .frame (config.modeMultitap :: config.mtapSelectPad :: i :: rest)
  | .mtapSelectMemcard i rest => .frame (config.modeMultitap :: config.mtapSelectMemcard :: i :: rest)
  | .mtapUnknown c rest => .frame (config.modeMultitap :: c :: rest)
  | .s2Infrared x rest => .frame (config.modeInfrared :: x :: rest)
  | .s2UnknownMode m rest => .frame (m :: rest)
  | .mcProbe rest => .frame (config.modeMemcard :: config.mcProbe :: rest)
  | .mcSetEraseSector a b c d k rest => .frame (config.modeMemcard :: config.mcSetEraseSector :: a :: b :: c :: d :: k :: rest)
  | .mcSetWriteSector a b c d k rest => .frame (config.modeMemcard :: config.mcSetWriteSector :: a :: b :: c :: d :: k :: rest)
  | .mcSetReadSector a b c d k rest => .frame (config.modeMemcard :: config.mcSetReadSector :: a :: b :: c :: d :: k :: rest)
  | .mcGetSpecs rest => .frame (config.modeMemcard :: config.mcGetSpecs :: rest)
  | .mcSetTerminator t rest => .frame (config.modeMemcard :: config.mcSetTerminator :: t :: rest)
  | .mcGetTerminator rest => .frame (config.modeMemcard :: config.mcGetTerminator :: rest)
  | .mcWriteData l rest => .frame (config.modeMemcard :: config.mcWriteData :: l :: rest)
  | .mcReadData l rest => .frame (config.modeMemcard :: config.mcReadData :: l :: rest)
  | .mcPs1Read rest => .frame (config.modeMemcard :: config.ps1Read :: rest)
  | .mcPs1State rest => .frame (config.modeMemcard :: config.ps1State :: rest)
  | .mcPs1Write rest => .frame (config.modeMemcard :: config.ps1Write :: rest)
  | .mcPs1Pocketstation rest => .frame (config.modeMemcard :: config.ps1Pocketstation :: rest)
  | .mcReadWriteEnd rest => .frame (config.modeMemcard :: config.mcReadWriteEnd :: rest)
  | .mcEraseBlock rest => .frame (config.modeMemcard :: config.mcEraseBlock :: rest)
  | .mcUnknownBoot rest => .frame (config.modeMemcard :: config.mcUnknownBoot :: rest)
  | .mcAuthXor00 rest => .frame (config.modeMemcard :: config.mcAuthXor :: 0x00 :: rest)
  | .mcAuthXor01 rest => .frame (config.modeMemcard :: config.mcAuthXor :: 0x01 :: rest)
  | .mcAuthXor02 rest => .frame (config.modeMemcard :: config.mcAuthXor :: 0x02 :: rest)
  | .mcAuthXor03 rest => .frame (config.modeMemcard :: config.mcAuthXor :: 0x03 :: rest)
  | .mcAuthXor04 rest => .frame (config.modeMemcard :: config.mcAuthXor :: 0x04 :: rest)
  | .mcAuthXor05 rest => .frame (config.modeMemcard :: config.mcAuthXor :: 0x05 :: rest)
  | .mcAuthXor06 rest => .frame (config.modeMemcard :: config.mcAuthXor :: 0x06 :: rest)
  | .mcAuthXor07 rest => .frame (config.modeMemcard :: config.mcAuthXor :: 0x07 :: rest)
  | .mcAuthXor08 rest => .frame (config.modeMemcard :: config.mcAuthXor :: 0x08 :: rest)
  | .mcAuthXor09 rest => .frame (config.modeMemcard :: config.mcAuthXor :: 0x09 :: rest)
  | .mcAuthXor0A rest => .frame (config.modeMemcard :: config.mcAuthXor :: 0x0A :: rest)
  | .mcAuthXor0B rest => .frame (config.modeMemcard :: config.mcAuthXor :: 0x0B :: rest)
  | .mcAuthXor0C rest => .frame (config.modeMemcard :: config.mcAuthXor :: 0x0C :: rest)
  | .mcAuthXor0D rest => .frame (config.modeMemcard :: config.mcAuthXor :: 0x0D :: rest)
  | .mcAuthXor0E rest => .frame (config.modeMemcard :: config.mcAuthXor :: 0x0E :: rest)
  | .mcAuthXor0F rest => .frame (config.modeMemcard :: config.mcAuthXor :: 0x0F :: rest)
  | .mcAuthXor10 rest => .frame (config.modeMemcard :: config.mcAuthXor :: 0x10 :: rest)
  | .mcAuthXor11 rest => .frame (config.modeMemcard :: config.mcAuthXor :: 0x11 :: rest)
  | .mcAuthXor12 rest => .frame (config.modeMemcard :: config.mcAuthXor :: 0x12 :: rest)
  | .mcAuthXor13 rest => .frame (config.modeMemcard :: config.mcAuthXor :: 0x13 :: rest)
  | .mcAuthXor14 rest => .frame (config.modeMemcard :: config.mcAuthXor :: 0x14 :: rest)
  | .mcAuthXorUnknown sub rest => .frame (config.modeMemcard :: config.mcAuthXor :: sub :: rest)
  | .mcAuthF3 rest => .frame (config.modeMemcard :: config.mcAuthF3 :: rest)
  | .mcAuthF7 rest => .frame (config.modeMemcard :: config.mcAuthF7 :: rest)
  | .mcUnknown c rest => .frame (config.modeMemcard :: c :: rest)
  | .s0Pad c rest => .transaction (config.modePad :: padCommandByte c :: rest)
  | .s0PadUnknown c => .transaction [config.modePad, c]
  | .s0Ps1Read rest => .transaction (config.modeMemcard :: config.ps1Read :: rest)
  | .s0Ps1State rest => .transaction (config.modeMemcard :: config.ps1State :: rest)
  | .s0Ps1Write rest => .transaction (config.modeMemcard :: config.ps1Write :: rest)
  | .s0Ps1Pocketstation => .transaction [config.modeMemcard, config.ps1Pocketstation]
  | .s0MemcardUnknown c => .transaction [config.modeMemcard, c]
  | .s0UnknownMode m => .transaction [m]

/-- The multitap enable under which the decoder reads an instruction's packet as that instruction: the condition of
its row (R79). Only multitap frames depend on it. -/
def Instr.multitapCondition : Instr → Bool
  | .s2MtapDisabled _ => false
  | _ => true

/-! ### The table's words

A row of opcode_table.json gives a HOST word (32 bits, the address), a frame's first bytes, leftmost byte most
significant (8 to 56 bits), a transaction's first two bytes (16 bits), or a 4-bit PIN code. The table's bits do
not tell a read from a write nor a frame from a transaction; log 10 says which is taken. -/

/-- The n bytes of a table word, leftmost byte first. -/
def tableBytes (n w : Nat) : List Byte :=
  (List.range n).map fun k => BitVec.ofNat 8 (w >>> (8 * (n - 1 - k)))

/-- The bytes of a table frame with the operand bytes above it zero, up to the longest fixed operands (11 bytes,
AUTH_XOR's payload). -/
def tableFrame (n w : Nat) : List Byte :=
  tableBytes n w ++ List.replicate (11 - n) 0

/-- The arguments of a PIN row, all zero. -/
def tablePinArgs (code : BitVec 4) : List Nat :=
  if code = Codes.pinDmaSetBlock then [0]
  else if code = Codes.pinAeSet ∨ code = Codes.pinAeClear then [0, 0]
  else []

/-- The image of CHECKPOINT_LOAD's row: the state after hard reset with every CRC 0. -/
def tableImage (code : BitVec 4) : Option Image :=
  if code = Codes.pinCheckpointLoad then
    some { state := Block.reset, crc := Vector.replicate sizes.nports (Vector.replicate sizes.nslots 0) }
  else none

/-- The access of a HOST row: a write of 0 where the register can be written, else a read. -/
def tableAccess (a : Word) : Packet :=
  match regAt a with
  | none => .read a 32
  | some .dataOut => encodeRead .dataOut
  | some r => .write a r.width 0

/-- Whether a table word is a PIN code: the table gives those 4 bits, one byte when counted in whole bytes. The byte
0x01 is left to the S2.PAD row. -/
def tableIsPin (nbits w : Nat) : Bool := decide (nbits < 8) || (nbits == 8 && decide (w < 7) && w != 1)

/-- The packet of a table word. -/
def tablePacket (nbits w : Nat) : Packet :=
  if tableIsPin nbits w then
    .pin (BitVec.ofNat 4 w) (tablePinArgs (BitVec.ofNat 4 w)) (tableImage (BitVec.ofNat 4 w))
  else if nbits = 32 then tableAccess (BitVec.ofNat 32 w)
  else if nbits = 16 ∧ BitVec.ofNat 8 (w >>> 8) = config.modePad then .transaction (tableBytes 2 w)
  else .frame (tableFrame (nbits / 8) w)

/-- The multitap enable of a table word: the 8-bit multitap row is the disabled one (R79). -/
def tableMultitap (nbits : Nat) : Bool := nbits != 8

/-- The instruction the decoder reads from a table word. -/
def decodeTableWord (nbits w : Nat) : Option Instr :=
  match decode (tableMultitap nbits) (tablePacket nbits w) with
  | .ok i => some i
  | .error _ => none

end Sys2Proof
end

