-- ==== Sys2Proof/Machine/State.lean ====
section
/-! DEFINITION. The machine's state as plain data: the block's own state (10_state.md R10, `Block`) and, beside it,
the model's fields for what the block meets only through an interface (R28): the host's stream, the answers of
pad, storage and multitap switches, the card contents, the parameters, and the output events. -/

namespace Sys2Proof.Machine

/-- One answer of the pad: the byte it replies and what `Pad.isComplete` says after it (00_scope.md R8). -/
structure PadAnswer where
  reply : Byte
  complete : Bool
  deriving DecidableEq, Repr

/-- What `Card.getSizeInfo` answers (R8). -/
structure Geometry where
  sectorSize : Half
  eraseBlockSectors : Half
  totalSectors : Word
  xorConstant : Byte
  deriving DecidableEq, Repr

/-- What the storage backend answers about one slot during one operation (R8, R41, R47). -/
structure CardInput where
  /-- `Card.isPresent`. -/
  present : Bool
  /-- `Card.isPSX`: the card is of the legacy PS1 type. -/
  isPSX : Bool
  /-- `Card.getSizeInfo`. -/
  geometry : Geometry
  /-- `Card.getCRC`. -/
  crc : BitVec 64
  /-- Whether a read, a save, an erase is admitted; one that is not fails as R8 says. -/
  admitsRead : Bool
  admitsSave : Bool
  admitsErase : Bool
  /-- Since the operation before, another card was put in or the storage was changed from outside: bytes saved
  earlier are no longer known to be there (log 18). -/
  exchanged : Bool
  deriving DecidableEq, Repr

/-- The answers from outside during one operation: the oracles and configuration inputs of R8 and R28. -/
structure Inputs where
  /-- The pad's answers to startPoll and poll, next first. -/
  pad : List PadAnswer
  /-- By port, then slot. -/
  card : SlotTable CardInput
  /-- `MultitapEnabled[port]`. -/
  multitapEnabled : Vector Bool sizes.nports
  deriving DecidableEq, Repr

/-- One element of the host's stream: what the host does and what answers from outside while it is done. -/
structure HostOp where
  packet : Packet
  inputs : Inputs
  deriving DecidableEq, Repr

/-- The two interrupt request outputs (60_exceptions.md R290, R291). -/
inductive IrqLine where
  | sio0
  | sio2
  deriving DecidableEq, Repr

/-- What the block puts out, in order (R292; log 7). -/
inductive Event where
  /-- The value an 8-bit read returns to the host. -/
  | read8 (v : Byte)
  /-- The value a 16-bit read returns. -/
  | read16 (v : Half)
  /-- The value a 32-bit read returns. -/
  | read32 (v : Word)
  /-- An interrupt request. -/
  | irq (line : IrqLine)
  /-- `Card.read(p, s, addr, n)`. -/
  | cardRead (p : Port) (q : Slot) (addr : Word) (n : Nat)
  /-- `Card.save(p, s, addr, bytes)`. -/
  | cardSave (p : Port) (q : Slot) (addr : Word) (bytes : List Byte)
  /-- `Card.eraseBlock(p, s, addr)`. -/
  | cardErase (p : Port) (q : Slot) (addr : Word)
  /-- `Pad.startPoll(p, s)`. -/
  | padStart (p : Port) (q : Slot)
  /-- `Pad.poll(b)`. -/
  | padPoll (b : Byte)
  deriving DecidableEq, Repr

/-- Bytes of a card by byte address, in the canonical form of `Memory.wf` (Machine/Ops.lean). An address not
listed holds no value the model knows: a read of it gives a free value (log 4). -/
abbrev Memory := List Host.Cell

/-- The machine's state. -/
structure State where
  /-- The state of the block (R10). -/
  blk : Block
  /-- The answers from outside during the operation in progress. -/
  inputs : Inputs
  /-- The parameters of R5; no operation writes them. -/
  params : Params
  /-- CARD(p, s): the bytes the block has saved and that no erase or exchange has undone (R40, R47). -/
  cards : SlotTable Memory
  /-- The host's operations not yet applied, next first (R52). -/
  pending : List HostOp
  /-- The output events so far, oldest first. -/
  events : List Event
  /-- How many free values have been drawn. -/
  freeCount : Nat
  deriving DecidableEq, Repr

/-- No operation of the block raises an exception, fault or trap and none can fail to complete (R285), so there is
no fault and this type has no constructor. -/
inductive Fault where
  deriving DecidableEq, Repr

/-- Why the model has no step. -/
inductive Refusal where
  /-- Raised by `exec` alone, for an instruction that has no meaning yet. Safe. -/
  | notModelled (mnemonic : String)
  /-- Raised by `step`: the host's packet is no instruction, for the reason given (U1, U7, R79). Safe. -/
  | rejected (why : DecodeError)
  /-- Raised by a handler that pops fifoIn when it is empty: the frame was shorter than its command needs (R7, U3,
  92_eei_decisions.md D39). Safe: a model has no step for it. -/
  | frameTooShort
  deriving DecidableEq, Repr

/-- What applying an operation answers. -/
abbrev Result := Host.Outcome State Fault Refusal

/-- An empty slot: the reset value of a slot's inputs (log 17). -/
def CardInput.absent : CardInput where
  present := false
  isPSX := false
  geometry := { sectorSize := 0, eraseBlockSectors := 0, totalSectors := 0, xorConstant := 0 }
  crc := 0
  admitsRead := true
  admitsSave := true
  admitsErase := true
  exchanged := false

/-- No pad answer listed, every slot empty, both multitaps disabled (log 17). -/
def Inputs.quiet : Inputs where
  pad := []
  card := Vector.replicate sizes.nports (Vector.replicate sizes.nslots CardInput.absent)
  multitapEnabled := Vector.replicate sizes.nports false

/-- The machine right after reset: the block as R29 says, nothing known of any card, no operation pending. -/
def State.reset : State where
  blk := Block.reset
  inputs := Inputs.quiet
  params := config.params
  cards := Vector.replicate sizes.nports (Vector.replicate sizes.nslots [])
  pending := []
  events := []
  freeCount := 0

end Sys2Proof.Machine
end

