-- ==== Sys2Proof/Machine/Operands.lean ====
section
/-! DEFINITION. How operands are assembled: the fields of a SEND3 entry (30_encoding.md R66), the operand forms of
a frame (R73), the byte fields of the GetSpecs reply (R48, R212), the address arithmetic of R49 and the
positions of the PS1 layout (R75). -/

namespace Sys2Proof.Machine

/-! ### SEND3 entries (R66) -/

/-- PORT, bit 0. -/
def entryPort (e : Word) : Port := if e.getLsbD config.entryPortBit then 1 else 0

/-- CMDLEN, bits 16 to 8. -/
def entryLength (e : Word) : Nat := (e.extractLsb' config.entryLengthLow config.entryLengthWidth).toNat

/-! ### Byte order (R48, R73) -/

/-- A 32-bit sector address, least significant byte first. -/
def wordOfBytes (a0 a1 a2 a3 : Byte) : Word :=
  a0.setWidth 32 ||| (a1.setWidth 32 <<< 8) ||| (a2.setWidth 32 <<< 16) ||| (a3.setWidth 32 <<< 24)

/-- The PS1 protocol's 16-bit sector address, most significant byte first, zero-extended. -/
def ps1Address (msb lsb : Byte) : Word := (msb.setWidth 32 <<< 8) ||| lsb.setWidth 32

/-- The two bytes of a half-word, least significant first. -/
def bytesOfHalf (h : Half) : List Byte := [h.extractLsb' 0 8, h.extractLsb' 8 8]

/-- The four bytes of a word, least significant first. -/
def bytesOfWord (w : Word) : List Byte :=
  [w.extractLsb' 0 8, w.extractLsb' 8 8, w.extractLsb' 16 8, w.extractLsb' 24 8]

/-- The reply fields of GetSpecs in their order (R212). -/
def geometryBytes (g : Geometry) : List Byte :=
  bytesOfHalf g.sectorSize ++ bytesOfHalf g.eraseBlockSectors ++ bytesOfWord g.totalSectors ++ [g.xorConstant]

/-! ### Card addresses (R41, R49) -/

/-- The byte address of a sector of a PS2-type card: `(sectorSize + ECC_BYTES) * sectorAddr`, modulo 2^32. -/
def sectorByteAddress (g : Geometry) (eccBytes : Nat) (sectorAddr : Word) : Word :=
  (g.sectorSize.setWidth 32 + BitVec.ofNat 32 eccBytes) * sectorAddr

/-- The byte address of a sector of a PS1-type card: `128 * sectorAddr`. -/
def ps1ByteAddress (sectorAddr : Word) : Word := BitVec.ofNat 32 sizes.ps1SectorBytes * sectorAddr

/-- The first address of the erase block that holds a byte address and the block's size in bytes: blocks of
`eraseBlockSectors` sectors, each stored with its spare bytes, counted from address 0 (log 5). -/
def eraseBlockBytes (g : Geometry) (eccBytes : Nat) : Nat :=
  g.eraseBlockSectors.toNat * (g.sectorSize.toNat + eccBytes)

/-- Whether a byte address lies in the erase block that holds `addr`. Where the geometry gives the block no size
every address is taken to lie in it (log 5). -/
def inEraseBlock (g : Geometry) (eccBytes : Nat) (addr : Word) (a : Nat) : Bool :=
  eraseBlockBytes g eccBytes == 0 || a / eraseBlockBytes g eccBytes == addr.toNat / eraseBlockBytes g eccBytes

/-- The n byte addresses of a transfer, lowest first, on 32 bits (R47; log 6). -/
def transferAddresses (addr : Word) (n : Nat) : List Word :=
  (List.range n).map fun i => addr + BitVec.ofNat 32 i

/-! ### The PS1 layout (R75) -/

/-- What a position of the PS1 Read layout is. -/
inductive ReadPosition where
  | handshake1
  | handshake2
  | addrMSB
  | addrLSB
  | handshake3
  | handshake4
  | echoMSB
  | echoLSB
  | data (i : Fin sizes.ps1SectorBytes)
  | checksum
  | trailer
  | past
  deriving DecidableEq, Repr

/-- The Read table of R75 (positions 2 to 139); any other position is R264's. -/
def readPosition (pos : Nat) : ReadPosition :=
  if h : 10 ≤ pos ∧ pos ≤ 137 then .data ⟨pos - 10, show pos - 10 < 128 by omega⟩
  else if pos = 2 then .handshake1
  else if pos = 3 then .handshake2
  else if pos = 4 then .addrMSB
  else if pos = 5 then .addrLSB
  else if pos = 6 then .handshake3
  else if pos = 7 then .handshake4
  else if pos = 8 then .echoMSB
  else if pos = 9 then .echoLSB
  else if pos = 138 then .checksum
  else if pos = 139 then .trailer
  else .past

/-- What a position of the PS1 Write layout is. -/
inductive WritePosition where
  | handshake1
  | handshake2
  | addrMSB
  | addrLSB
  | data (i : Fin sizes.ps1SectorBytes)
  | checksum
  | handshake3
  | handshake4
  | status
  | past
  deriving DecidableEq, Repr

/-- The Write table of R75 (positions 2 to 137); any other position is R264's. -/
def writePosition (pos : Nat) : WritePosition :=
  if h : 6 ≤ pos ∧ pos ≤ 133 then .data ⟨pos - 6, show pos - 6 < 128 by omega⟩
  else if pos = 2 then .handshake1
  else if pos = 3 then .handshake2
  else if pos = 4 then .addrMSB
  else if pos = 5 then .addrLSB
  else if pos = 134 then .checksum
  else if pos = 135 then .handshake3
  else if pos = 136 then .handshake4
  else if pos = 137 then .status
  else .past

end Sys2Proof.Machine
end

