-- ==== Sys2Proof/Machine/Flags.lean ====
section
/-! DEFINITION. The flags of the block (10_state.md R26) as functions: the bits of SIO0 STAT (R11, R63), the checks
that goodSector holds, the exclusive-or checksum (R49), and FLAG's directory-unread bit (R258). -/

namespace Sys2Proof.Machine

/-- `set STAT.x` for a mask of bits. -/
def setBits (stat mask : Word) : Word := stat ||| mask

/-- `clear STAT.x` for a mask of bits. -/
def clearBits (stat mask : Word) : Word := stat &&& ~~~mask

/-- The three bits every TX_DATA write sets (R90). -/
def statAfterTx (stat : Word) : Word :=
  setBits stat (config.statTxReady ||| config.statTxEmpty ||| config.statRxFifoNotEmpty)

/-- The three bits a CTRL write with ACK clears (R94). -/
def statAfterCtrlAck (stat : Word) : Word :=
  clearBits stat (config.statAck ||| config.statRxParityError ||| config.statIrq)

/-- The checksum of a run of bytes: their exclusive or, of no bytes 0x00 (R49). -/
def xorFold (bytes : List Byte) : Byte := bytes.foldl (· ^^^ ·) 0

/-- goodSector after SetSector: the exclusive or of the four address bytes is the fifth byte (R210). -/
def addressGood (a0 a1 a2 a3 chk : Byte) : Bool := (a0 ^^^ a1 ^^^ a2 ^^^ a3) == chk

/-- goodSector after a PS1 address: `sectorAddr ≤ 0x3FF`, unsigned (R242). -/
def ps1AddressGood (sectorAddr : Word) : Bool := decide (sectorAddr.toNat ≤ config.ps1MaxSector)

/-- FLAG with the directory-unread bit cleared (R258). -/
def flagDirectoryRead (flag : Byte) : Byte := flag &&& Codes.directoryReadMask

end Sys2Proof.Machine
end

