-- ==== Sys2Proof/Machine/Ops.lean ====
section
/-! DEFINITION. The named operations over the state: queues (10_state.md R19), slot records, output events, card
memory (20_memory.md R41, R47), the pad's and the storage backend's primitives (00_scope.md R8), interrupt
requests (60_exceptions.md R290 to R292) and the soft resets (70_reset_and_hazards.md R311, R312).
The block takes no exception and returns from none (R285, R287): what stands in their place is the interrupt
request, an output event that saves nothing, and the implicit stage reset `sio0SoftReset`. -/

namespace Sys2Proof.Machine

/-- Go on with what an operation answered. -/
def andThen (r : Result) (k : State → Result) : Result :=
  match r with
  | .next s => k s
  | .fault f => .fault f
  | .refused why => .refused why

/-! ### Fields -/

/-- Record an output event (R292). -/
def emit (e : Event) (s : State) : State := { s with events := s.events ++ [e] }

/-- `fifoOut.push` of each byte in turn. -/
def pushOut (bytes : List Byte) (s : State) : State := { s with blk.fifoOut := s.blk.fifoOut ++ bytes }

/-- Replace fifoIn. -/
def setFifoIn (bytes : List Byte) (s : State) : State := { s with blk.fifoIn := bytes }

/-- Replace fifoOut. -/
def setFifoOut (bytes : List Byte) (s : State) : State := { s with blk.fifoOut := bytes }

/-- Replace the SIO0 group. -/
def setSio0 (r : Sio0) (s : State) : State := { s with blk.sio0 := r }

/-- Replace the SIO2 group. -/
def setSio2 (r : Sio2) (s : State) : State := { s with blk.sio2 := r }

/-- Replace the PS1 record. -/
def setPs1 (r : Ps1) (s : State) : State := { s with blk.ps1 := r }

/-- Replace the table of slot records. -/
def setMcd (t : SlotTable SlotRecord) (s : State) : State := { s with blk.mcd := t }

/-- Replace the card memories. -/
def setCards (t : SlotTable Memory) (s : State) : State := { s with cards := t }

/-- Replace the pad answers not yet given. -/
def setPadAnswers (l : List PadAnswer) (s : State) : State := { s with inputs.pad := l }

/-- One free value has been drawn. -/
def drawFree (s : State) : State := { s with freeCount := s.freeCount + 1 }

/-- RECV1 <- v. -/
def setRecv1 (v : Word) (s : State) : State := setSio2 { s.blk.sio2 with recv1 := v } s

/-- STAT <- v. -/
def setStat (v : Word) (s : State) : State := setSio0 { s.blk.sio0 with stat := v } s

/-- An entry of a table by port and slot. -/
def entryAt {α : Type} (t : SlotTable α) (p : Port) (q : Slot) : α := (t[p])[q]

/-- A table with one entry replaced. -/
def setEntry {α : Type} (t : SlotTable α) (p : Port) (q : Slot) (x : α) : SlotTable α :=
  t.set p ((t[p]).set q x)

/-- The slot record `mcd[p][q]`. -/
def slotRec (p : Port) (q : Slot) (s : State) : SlotRecord := entryAt s.blk.mcd p q

/-- Replace the slot record `mcd[p][q]`. -/
def setSlotRec (p : Port) (q : Slot) (r : SlotRecord) (s : State) : State := setMcd (setEntry s.blk.mcd p q r) s

/-- The inputs of a slot. -/
def cardInput (p : Port) (q : Slot) (s : State) : CardInput := entryAt s.inputs.card p q

/-- The known bytes of the card in a slot. -/
def cardMem (p : Port) (q : Slot) (s : State) : Memory := entryAt s.cards p q

/-- Replace the known bytes of the card in a slot. -/
def setCardMem (p : Port) (q : Slot) (m : Memory) (s : State) : State := setCards (setEntry s.cards p q m) s

/-- The eight slots. -/
def allSlots : List (Port × Slot) :=
  [(0, 0), (0, 1), (0, 2), (0, 3), (1, 0), (1, 1), (1, 2), (1, 3)]

/-! ### Queues -/

/-- `popIn()` of R7: the head of fifoIn, and the refusal where there is none. -/
def popIn (s : State) (k : Byte → State → Result) : Result :=
  match s.blk.fifoIn with
  | [] => .refused .frameTooShort
  | b :: bytes => k b (setFifoIn bytes s)

/-- n calls of `popIn()`. -/
def popInN (n : Nat) (s : State) (k : List Byte → State → Result) : Result :=
  if s.blk.fifoIn.length < n then .refused .frameTooShort
  else k (s.blk.fifoIn.take n) (setFifoIn (s.blk.fifoIn.drop n) s)

/-- `while |fifoOut| − base < n do fifoOut.push(fill)`. -/
def padReplyTo (n : Nat) (fill : Byte) (base : Nat) (s : State) : State :=
  pushOut (List.replicate (n - (s.blk.fifoOut.length - base)) fill) s

/-- `TwoBTerminator(L, base, m)` of 42_sio2_sequencer.md R172, for a terminator byte. -/
def twoBTerminator (total base : Nat) (term : Byte) (s : State) : State :=
  pushOut [config.reply2B, term] (padReplyTo (total - 2) config.deadAir base s)

/-! ### Interrupt requests -/

/-- The line's number at the IOP interrupt controller (R290, R291). -/
def IrqLine.number : IrqLine → Nat
  | .sio0 => config.irqLineSio0
  | .sio2 => config.irqLineSio2

/-- `raise IRQ(line)`: one request event; the block keeps no pending bit (R290 to R292). -/
def raiseIrq (line : IrqLine) (s : State) : State := emit (.irq line) s

/-! ### Card memory -/

/-- The byte the block knows at an address. -/
def Memory.byteAt (m : Memory) (a : Nat) : Option Byte :=
  match m with
  | [] => none
  | (k, b) :: rest => if k = a then some b else Memory.byteAt rest a

/-- Store one byte, keeping the addresses rising. -/
def Memory.write (m : Memory) (a : Nat) (b : Byte) : Memory :=
  match m with
  | [] => [(a, b)]
  | (k, c) :: rest =>
    if a < k then (a, b) :: (k, c) :: rest
    else if a = k then (a, b) :: rest
    else (k, c) :: Memory.write rest a b

/-- Store the bytes at their addresses, in order. -/
def Memory.writeAll (m : Memory) : List (Word × Byte) → Memory
  | [] => m
  | (a, b) :: rest => Memory.writeAll (Memory.write m a.toNat b) rest

/-- Forget the bytes at the addresses the test admits. -/
def Memory.forget (m : Memory) (drop : Nat → Bool) : Memory := m.filter fun c => !drop c.1

/-- Strictly rising from above `low`, below 2^32. -/
def Memory.risingFrom (low : Nat) : Memory → Bool
  | [] => true
  | (k, _) :: rest => decide (low ≤ k) && decide (k < 2 ^ 32) && Memory.risingFrom (k + 1) rest

/-- The canonical form: addresses strictly rising, each a `u32` (R40). No entry can equal what an unlisted address
reads as, which is no known value (log 4). -/
def Memory.wf (m : Memory) : Bool := Memory.risingFrom 0 m

/-! ### The storage backend (R8, R47) -/

/-- What a byte of the card reads as: the byte saved there, else a free value of this read (log 4). -/
def cardByte (p : Port) (q : Slot) (s : State) (a : Word) : Byte :=
  match Memory.byteAt (cardMem p q s) a.toNat with
  | some b => b
  | none => Config.cardByte s.freeCount p q a

/-- The bytes `Card.read` returns, lowest address first; a read the backend does not admit gives zero bytes
(R8, R41, 92_eei_decisions.md D49). -/
def cardReadBytes (p : Port) (q : Slot) (addr : Word) (n : Nat) (s : State) : List Byte :=
  if (cardInput p q s).admitsRead then (transferAddresses addr n).map (cardByte p q s)
  else List.replicate n 0

/-- `Card.read`: the call is an output event; the bytes are `cardReadBytes`. -/
def cardReadCall (p : Port) (q : Slot) (addr : Word) (n : Nat) (s : State) : State :=
  drawFree (emit (.cardRead p q addr n) s)

/-- `Card.save`: the first byte at addr, the next at addr + 1 and so on; dropped where the backend does not admit
it (R8, R47). -/
def cardSave (p : Port) (q : Slot) (addr : Word) (bytes : List Byte) (s : State) : State :=
  emit (.cardSave p q addr bytes)
    (if (cardInput p q s).admitsSave then
      setCardMem p q (Memory.writeAll (cardMem p q s) ((transferAddresses addr bytes.length).zip bytes)) s
    else s)

/-- `Card.eraseBlock`: what the bytes of the block read as afterwards is not known (R47, U9; log 5). -/
def cardErase (p : Port) (q : Slot) (addr : Word) (s : State) : State :=
  emit (.cardErase p q addr)
    (if (cardInput p q s).admitsErase then
      setCardMem p q
        (Memory.forget (cardMem p q s) (inEraseBlock (cardInput p q s).geometry s.params.eccBytes addr)) s
    else s)

/-! ### The pad (R8) -/

/-- The pad's next answer: the next one listed, else free values (log 3). -/
def padAnswer (s : State) : PadAnswer :=
  match s.inputs.pad with
  | a :: _ => a
  | [] => { reply := Config.padReply s.freeCount, complete := Config.padComplete s.freeCount }

/-- That answer has been given. -/
def padAnswered (s : State) : State :=
  match s.inputs.pad with
  | _ :: rest => setPadAnswers rest s
  | [] => drawFree s

/-- The state after `Pad.startPoll(p, q)`; its answer is `padAnswer` before it. -/
def padStartCall (p : Port) (q : Slot) (s : State) : State := emit (.padStart p q) (padAnswered s)

/-- The state after `Pad.poll(b)`; its answer and `Pad.isComplete` after it are `padAnswer` before it. -/
def padPollCall (b : Byte) (s : State) : State := emit (.padPoll b) (padAnswered s)

/-! ### Acknowledge and resets -/

/-- `set STAT.ACK` where the condition holds. -/
def ackIf (c : Bool) (s : State) : State :=
  setStat (if c then setBits s.blk.sio0.stat config.statAck else s.blk.sio0.stat) s

/-- `Ps1Reset()` of 45_memcard_ps1.md R240. -/
def ps1Reset (s : State) : State := setPs1 Ps1.start s

/-- `Sio0SoftReset()` of R311: the full protocol reset, which is also the implicit stage reset. -/
def sio0SoftReset (s : State) : State :=
  ps1Reset (setSio0 { s.blk.sio0 with stage := .idle, sioMode := .notSet, command := 0 } s)

/-- `Sio2SoftReset()` of R312. -/
def sio2SoftReset (s : State) : State :=
  setFifoOut (if s.params.softresetClearsFifoOut then [] else s.blk.fifoOut)
    (setFifoIn []
      (setSio2
        { s.blk.sio2 with
          send3Read := false
          send3Position := 0
          send3Complete := false
          commandLength := 0
          dmaBlockSize := 0 } s))

/-! ### The auto-eject counters (46_autoeject.md R270) -/

/-- `mcd[p][q].autoEjectTicks <- n`. -/
def setTicks (p : Port) (q : Slot) (n : Nat) (s : State) : State :=
  setSlotRec p q { slotRec p q s with autoEjectTicks := n } s

/-- All eight counters <- n. -/
def setAllTicks (n : Nat) (s : State) : State :=
  allSlots.foldl (fun t pq => setTicks pq.1 pq.2 n t) s

/-- One access attempt to an armed slot: exactly one less (R270). -/
def countAccess (p : Port) (q : Slot) (s : State) : State :=
  setTicks p q ((slotRec p q s).autoEjectTicks - 1) s

end Sys2Proof.Machine
end

