-- ==== Sys2Proof/Machine/Ps1Card.lean ====
section
/-! DEFINITION. The nested PS1 memory-card protocol, 45_memcard_ps1.md: the handlers of Read, Write and State, one
byte at a time, and their nesting in an SIO2 frame. A handler runs in a card context (port, slot) (R241) and
answers the reply byte with the state after it. -/

namespace Sys2Proof.Machine

/-- `Ps1Ack()`: STAT.ACK, on both paths (R241). -/
def ps1Ack (s : State) : State := ackIf true s

/-- The cursor moves on by one, whatever the position. -/
def ps1Advance (s : State) : State := setPs1 { s.blk.ps1 with cursor := s.blk.ps1.cursor + 1 } s

/-- `Ps1Seed()` (R243). -/
def ps1Seed (s : State) : Byte :=
  match s.params.ps1ChecksumSeed with
  | .zero => 0
  | .address => s.blk.ps1.addrMSB ^^^ s.blk.ps1.addrLSB

/-- `Ps1AddrRecompute(m)` (R242). -/
def ps1AddrRecompute (p : Port) (q : Slot) (s : State) : State :=
  let a := ps1Address s.blk.ps1.addrMSB s.blk.ps1.addrLSB
  setSlotRec p q
    { slotRec p q s with sectorAddr := a, goodSector := ps1AddressGood a, transferAddr := ps1ByteAddress a } s

/-- Position 4: the most significant address byte arrives. -/
def ps1TakeMSB (b : Byte) (s : State) : State := setPs1 { s.blk.ps1 with addrMSB := b } s

/-- Position 5: the least significant address byte arrives, the address is recomputed and the running checksum
takes its seed. -/
def ps1TakeLSB (p : Port) (q : Slot) (b : Byte) (s : State) : State :=
  let s := ps1AddrRecompute p q (setPs1 { s.blk.ps1 with addrLSB := b } s)
  setPs1 { s.blk.ps1 with checksum := ps1Seed s } s

/-- The 128-byte sector buffer holding the first 128 bytes of a list. -/
def bufferOf (bytes : List Byte) : Vector Byte sizes.ps1SectorBytes :=
  ⟨⟨(List.range sizes.ps1SectorBytes).map fun i => bytes.getD i 0⟩, by simp⟩

/-- The fetch of R247: one storage call of 128 bytes at transferAddr, not gated by goodSector. -/
def ps1Fetch (p : Port) (q : Slot) (s : State) : State :=
  let addr := (slotRec p q s).transferAddr
  let bytes := cardReadBytes p q addr sizes.ps1SectorBytes s
  let s := cardReadCall p q addr sizes.ps1SectorBytes s
  setPs1 { s.blk.ps1 with buf := bufferOf bytes } s

/-- `Ps1ReadData(i)` (R247). -/
def ps1ReadData (p : Port) (q : Slot) (i : Fin sizes.ps1SectorBytes) (s : State) : Byte × State :=
  let s := if i.val = 0 then ps1Fetch p q s else s
  let d := s.blk.ps1.buf[i]
  (d, ps1Ack (setPs1 { s.blk.ps1 with checksum := s.blk.ps1.checksum ^^^ d } s))

/-- A byte past the layout: any value for the reply, no acknowledge, nothing else (R264, U6; log 3). -/
def ps1PastLayout (s : State) : Byte × State := (Config.pastLayoutReply s.freeCount, drawFree s)

/-- `Ps1Read(b)` (R244). -/
def ps1Read (p : Port) (q : Slot) (b : Byte) (s : State) : Byte × State :=
  let pos := s.blk.ps1.cursor
  let s := ps1Advance s
  match readPosition pos with
  | .handshake1 => (config.handshake1, ps1Ack s)
  | .handshake2 => (config.handshake2, ps1Ack s)
  | .addrMSB => (config.deadAir, ps1Ack (ps1TakeMSB b s))
  | .addrLSB => (config.deadAir, ps1Ack (ps1TakeLSB p q b s))
  | .handshake3 => (config.handshake3, ps1Ack s)
  | .handshake4 => (config.handshake4, ps1Ack s)
  | .echoMSB => (s.blk.ps1.addrMSB, ps1Ack s)
  | .echoLSB => (s.blk.ps1.addrLSB, ps1Ack s)
  | .data i => ps1ReadData p q i s
  | .checksum => (s.blk.ps1.checksum, ps1Ack s)
  | .trailer => (config.ps1Good, s)
  | .past => ps1PastLayout s

/-- A data byte of Write is buffered and enters the running checksum (R252). -/
def ps1Buffer (i : Fin sizes.ps1SectorBytes) (b : Byte) (s : State) : State :=
  setPs1 { s.blk.ps1 with buf := s.blk.ps1.buf.set i b, checksum := s.blk.ps1.checksum ^^^ b } s

/-- `Ps1WriteCommit()` (R258): the checksum is tested before the sector; only a success saves. -/
def ps1WriteCommit (p : Port) (q : Slot) (s : State) : Byte × State :=
  if s.blk.ps1.expected ≠ s.blk.ps1.checksum then (config.ps1BadChecksum, s)
  else if (slotRec p q s).goodSector = false then (config.ps1BadSector, s)
  else
    let s := cardSave p q (slotRec p q s).transferAddr s.blk.ps1.buf.toList s
    (config.ps1Good, setSlotRec p q { slotRec p q s with flag := flagDirectoryRead (slotRec p q s).flag } s)

/-- `Ps1Write(b)` (R252). -/
def ps1Write (p : Port) (q : Slot) (b : Byte) (s : State) : Byte × State :=
  let pos := s.blk.ps1.cursor
  let s := ps1Advance s
  match writePosition pos with
  | .handshake1 => (config.handshake1, ps1Ack s)
  | .handshake2 => (config.handshake2, ps1Ack s)
  | .addrMSB => (config.deadAir, ps1Ack (ps1TakeMSB b s))
  | .addrLSB => (config.deadAir, ps1Ack (ps1TakeLSB p q b s))
  | .data i => (config.deadAir, ps1Ack (ps1Buffer i b s))
  | .checksum => (config.deadAir, ps1Ack (setPs1 { s.blk.ps1 with expected := b } s))
  | .handshake3 => (config.handshake3, ps1Ack s)
  | .handshake4 => (config.handshake4, ps1Ack s)
  | .status => ps1WriteCommit p q s
  | .past => ps1PastLayout s

/-- `Ps1State(b)` (R260): 0x00 whatever the byte, never acknowledged. -/
def ps1State (s : State) : Byte × State := (config.deadAir, ps1Advance s)

/-- A PS1 handler fed with the rest of a frame, each reply queued (R266). -/
def ps1Drain (handler : Byte → State → Byte × State) : List Byte → State → State
  | [], s => s
  | b :: bytes, s => ps1Drain handler bytes (pushOut [(handler b s).1] (handler b s).2)

/-- `McNestedPs1(c)` for the three commands with a layout: the record starts afresh and fifoIn is drained
(R266). -/
def ps1Nested (handler : Byte → State → Byte × State) (s : State) : State :=
  ps1Drain handler s.blk.fifoIn (setFifoIn [] (ps1Reset s))

/-- MC.PS1_READ (R244 through R266). -/
def mcPs1Read (p : Port) (q : Slot) (s : State) : State := ps1Nested (ps1Read p q) s

/-- MC.PS1_STATE (R260 through R266). -/
def mcPs1State (s : State) : State := ps1Nested (fun _ t => ps1State t) s

/-- MC.PS1_WRITE (R252 through R266). -/
def mcPs1Write (p : Port) (q : Slot) (s : State) : State := ps1Nested (ps1Write p q) s

/-- MC.PS1_POCKETSTATION on the SIO2 path (R262). -/
def mcPs1Pocketstation (s : State) : State := pushOut [config.deadAir] (setRecv1 config.recv1Disconnected s)

end Sys2Proof.Machine
end

