-- ==== Sys2Proof/Machine/MemcardPs2.lean ====
section
/-! DEFINITION. The PS2-native memory-card commands, 44_memcard_ps2.md: the entry, the dead air of an armed or empty
slot, the guard for a PS1-type card, and one handler per command. A handler runs after the 2-byte preamble,
in the card context (port, slot), with the reply base of 42_sio2_sequencer.md R171. -/

namespace Sys2Proof.Machine

/-- The card context of an SIO2 frame (R200). -/
def sio2Card (s : State) : Port × Slot := (s.blk.sio2.port, s.blk.sio2.slot)

/-- `Ps1TypeGuard()` (R204): a PS1-type card answers a PS2-native command with zeros up to commandLength, and
nothing else happens. -/
def ps1TypeGuard (p : Port) (q : Slot) (base : Nat) (s : State) (command : State → Result) : Result :=
  if (cardInput p q s).isPSX then .next (padReplyTo s.blk.sio2.commandLength config.deadAir base s) else command s

/-- `TwoBTerminator(L, base, m)` for the slot's terminator (R172). -/
def endReply (total base : Nat) (p : Port) (q : Slot) (s : State) : State :=
  twoBTerminator total base (slotRec p q s).term s

/-- MC.PROBE (R206). -/
def mcProbe (p : Port) (q : Slot) (base : Nat) (s : State) : Result :=
  ps1TypeGuard p q base s fun s => .next (endReply 4 base p q s)

/-- MC.READ_WRITE_END (R222). -/
def mcReadWriteEnd (p : Port) (q : Slot) (base : Nat) (s : State) : Result :=
  ps1TypeGuard p q base s fun s => .next (endReply 4 base p q s)

/-- MC.ERASE_BLOCK (R224): the block that holds transferAddr. -/
def mcEraseBlock (p : Port) (q : Slot) (base : Nat) (s : State) : Result :=
  ps1TypeGuard p q base s fun s => .next (endReply 4 base p q (cardErase p q (slotRec p q s).transferAddr s))

/-- MC.UNKNOWN_BOOT (R225). -/
def mcUnknownBoot (p : Port) (q : Slot) (base : Nat) (s : State) : Result :=
  ps1TypeGuard p q base s fun s => .next (endReply 5 base p q s)

/-- What SetSector writes to the slot record (R210). -/
def setSector (p : Port) (q : Slot) (a0 a1 a2 a3 chk : Byte) (s : State) : State :=
  setSlotRec p q
    { slotRec p q s with
      goodSector := addressGood a0 a1 a2 a3 chk
      sectorAddr := wordOfBytes a0 a1 a2 a3
      transferAddr :=
        sectorByteAddress (cardInput p q s).geometry s.params.eccBytes (wordOfBytes a0 a1 a2 a3) } s

/-- MC.SET_ERASE_SECTOR, MC.SET_WRITE_SECTOR and MC.SET_READ_SECTOR: one operation (R210). -/
def mcSetSector (p : Port) (q : Slot) (base : Nat) (s : State) : Result :=
  ps1TypeGuard p q base s fun s =>
    popIn s fun a0 s => popIn s fun a1 s => popIn s fun a2 s => popIn s fun a3 s => popIn s fun chk s =>
      .next (endReply 9 base p q (setSector p q a0 a1 a2 a3 chk s))

/-- MC.GET_SPECS (R212). -/
def mcGetSpecs (p : Port) (q : Slot) (base : Nat) (s : State) : Result :=
  ps1TypeGuard p q base s fun s =>
    .next (pushOut ([config.reply2B] ++ geometryBytes (cardInput p q s).geometry ++ [(slotRec p q s).term]) s)

/-- MC.SET_TERMINATOR (R214): the reply carries the terminator in force before. -/
def mcSetTerminator (p : Port) (q : Slot) (base : Nat) (s : State) : Result :=
  ps1TypeGuard p q base s fun s =>
    popIn s fun t s =>
      .next (pushOut [config.deadAir, config.reply2B, (slotRec p q s).term]
        (setSlotRec p q { slotRec p q s with term := t } s))

/-- MC.GET_TERMINATOR (R216). -/
def mcGetTerminator (p : Port) (q : Slot) (base : Nat) (s : State) : Result :=
  ps1TypeGuard p q base s fun s =>
    .next (pushOut [config.reply2B, (slotRec p q s).term, config.termDefault] s)

/-- transferAddr moves on by a transfer's length, modulo 2^32 (R218, R220, R49). -/
def advanceTransfer (p : Port) (q : Slot) (n : Nat) (s : State) : State :=
  setSlotRec p q
    { slotRec p q s with transferAddr := (slotRec p q s).transferAddr + BitVec.ofNat 32 n } s

/-- The byte before the terminator of a WriteData reply (R218, WRITE_DATA_TRAILER). -/
def writeTrailer (bytes : List Byte) (s : State) : Byte :=
  match s.params.writeDataTrailer with
  | .checksum => xorFold bytes
  | .reply2B => config.reply2B

/-- MC.WRITE_DATA (R218): the address used is transferAddr before the advance. -/
def mcWriteData (p : Port) (q : Slot) (base : Nat) (s : State) : Result :=
  ps1TypeGuard p q base s fun s =>
    popIn s fun len s =>
      popInN len.toNat s fun bytes s =>
        .next (advanceTransfer p q len.toNat
          (pushOut ([config.deadAir, config.reply2B] ++ List.replicate len.toNat config.deadAir
              ++ [writeTrailer bytes s, (slotRec p q s).term])
            (cardSave p q (slotRec p q s).transferAddr bytes s)))

/-- MC.READ_DATA (R220). -/
def mcReadData (p : Port) (q : Slot) (base : Nat) (s : State) : Result :=
  ps1TypeGuard p q base s fun s =>
    popIn s fun len s =>
      let addr := (slotRec p q s).transferAddr
      let bytes := cardReadBytes p q addr len.toNat s
      .next (advanceTransfer p q len.toNat
        (pushOut ([config.deadAir, config.reply2B] ++ bytes ++ [xorFold bytes, (slotRec p q s).term])
          (cardReadCall p q addr len.toNat s)))

/-- The long shape with the payload's exclusive or (R227). -/
def mcAuthLongXor (p : Port) (q : Slot) (s : State) : Result :=
  popInN 8 s fun payload s =>
    .next (pushOut ([config.deadAir, config.reply2B] ++ List.replicate 8 config.deadAir
      ++ [xorFold payload, (slotRec p q s).term]) s)

/-- MC.AUTH_XOR (R226): the shape of the sub-mode's class (R227 to R229, R231). -/
def mcAuthXor (p : Port) (q : Slot) (base : Nat) (s : State) : Result :=
  ps1TypeGuard p q base s fun s =>
    popIn s fun sub s =>
      match authClassOf sub with
      | .longXor => mcAuthLongXor p q s
      | .short => .next (endReply 5 base p q s)
      | .longNoXor => .next (endReply 14 base p q s)
      | .unknown => .next s

/-- MC.AUTH_F3 and MC.AUTH_F7 (R230). -/
def mcAuthShort (p : Port) (q : Slot) (base : Nat) (s : State) : Result :=
  ps1TypeGuard p q base s fun s => .next (endReply 5 base p q s)

/-- The command the byte after the mode byte selects (R200); an unknown one does nothing more (R232). -/
def mcCommand (p : Port) (q : Slot) (base : Nat) (c : Byte) (s : State) : Result :=
  match mcCommandOf c with
  | .probe => mcProbe p q base s
  | .setEraseSector => mcSetSector p q base s
  | .setWriteSector => mcSetSector p q base s
  | .setReadSector => mcSetSector p q base s
  | .getSpecs => mcGetSpecs p q base s
  | .setTerminator => mcSetTerminator p q base s
  | .getTerminator => mcGetTerminator p q base s
  | .writeData => mcWriteData p q base s
  | .readData => mcReadData p q base s
  | .ps1Read => .next (mcPs1Read p q s)
  | .ps1State => .next (mcPs1State s)
  | .ps1Write => .next (mcPs1Write p q s)
  | .ps1Pocketstation => .next (mcPs1Pocketstation s)
  | .readWriteEnd => mcReadWriteEnd p q base s
  | .eraseBlock => mcEraseBlock p q base s
  | .unknownBoot => mcUnknownBoot p q base s
  | .authXor => mcAuthXor p q base s
  | .authF3 => mcAuthShort p q base s
  | .authF7 => mcAuthShort p q base s
  | .unknown => .next s

/-- `McDeadAir()` (R202): one 0x00 per frame byte, fifoIn drained. -/
def mcDeadAir (s : State) : State :=
  setFifoIn [] (pushOut (List.replicate (s.blk.fifoIn.length + 1) config.deadAir) s)

/-- The 2-byte preamble, dummy and FLAG (R200). -/
def mcPreamble (p : Port) (q : Slot) (s : State) : State := pushOut [config.deadAir, (slotRec p q s).flag] s

/-- `Sio2Memcard(base)` (R200): auto-eject before absence before the command byte (R288). -/
def sio2Memcard (base : Nat) (s : State) : Result :=
  let p := (sio2Card s).1
  let q := (sio2Card s).2
  if 0 < (slotRec p q s).autoEjectTicks then
    .next (countAccess p q (mcDeadAir (setRecv1 config.recv1Disconnected s)))
  else if (cardInput p q s).present = false then
    .next (mcDeadAir (setRecv1 config.recv1Disconnected s))
  else
    popIn (setRecv1 config.recv1Connected s) fun c s => mcCommand p q base c (mcPreamble p q s)

end Sys2Proof.Machine
end

