-- ==== Sys2Proof/Machine/Multitap.lean ====
section
/-! DEFINITION. The multitap slot-routing selector, 43_multitap.md. -/

namespace Sys2Proof.Machine

/-- `MtapSupportCheck()` (R193). -/
def mtapSupportCheck (s : State) : Result := .next (pushOut config.supportCheckReply s)

/-- SIO2.slot after a Select that succeeds (R194); the comparison is unsigned on the whole byte. -/
def selectedSlot (index : Byte) (old : Slot) : Slot := if h : index.toNat < sizes.nslots then ⟨index.toNat, h⟩ else old

/-- `MtapSelect()` (R194). -/
def mtapSelect (s : State) : Result :=
  popIn s fun index s =>
    .next (pushOut (if index.toNat < sizes.nslots then Codes.selectReply index else config.selectFailure)
      (setSio2 { s.blk.sio2 with slot := selectedSlot index s.blk.sio2.slot } s))

/-- `MultitapProtocol(base)` (R192); an unknown command does nothing more (R196). -/
def mtapProtocol (s : State) : Result :=
  popIn s fun c s =>
    match mtapCommandOf c with
    | .padSupportCheck => mtapSupportCheck s
    | .memcardSupportCheck => mtapSupportCheck s
    | .selectPad => mtapSelect s
    | .selectMemcard => mtapSelect s
    | .unknown => .next s

/-- `MultitapEnabled[port]` for the addressed port (R190). -/
def multitapEnabled (p : Port) (s : State) : Bool := s.inputs.multitapEnabled[p]

/-- `Sio2Multitap(base)` (R190): the enable switch before the command byte (R288). -/
def sio2Multitap (base : Nat) (s : State) : Result :=
  let s := pushOut [config.deadAir] s
  if multitapEnabled s.blk.sio2.port s then mtapProtocol (setRecv1 config.recv1Connected s)
  else .next (padReplyTo s.blk.sio2.commandLength config.deadAir base (setRecv1 config.recv1Disconnected s))

end Sys2Proof.Machine
end

