-- ==== Sys2Proof/Machine/Sequencer.lean ====
section
/-! DEFINITION. The SEND3 sequencer and the mode handlers, 42_sio2_sequencer.md: what one byte written to SIO2
DATA_IN does, and the host's sending of a whole frame. -/

namespace Sys2Proof.Machine

/-- `Sio2DecodeEntry()` (R162). -/
def decodedEntry (r : Sio2) : Sio2 :=
  if h : r.send3Position < sizes.send3Entries then
    let e := r.send3[r.send3Position]
    { r with
      port := entryPort e
      commandLength := entryLength e
      send3Complete := r.send3Complete || entryLength e == 0
      send3Read := true }
  else { r with send3Complete := true, send3Read := true }

/-- `Sio2DecodeEntry()` on the state: fifoIn is cleared with it (R162). -/
def sio2DecodeEntry (s : State) : State := setFifoIn [] (setSio2 (decodedEntry s.blk.sio2) s)

/-- The number of bytes that completes the frame (R163). -/
def frameTarget (r : Sio2) : Nat := if r.dmaBlockSize = 0 then r.commandLength else r.dmaBlockSize

/-- What reply lengths are measured from (R171, PAD_BASIS, 92_eei_decisions.md D25). -/
def replyBase (s : State) : Nat :=
  match s.params.padBasis with
  | .relative => s.blk.fifoOut.length
  | .absolute => 0

/-- `Sio2Pad`'s loop: every remaining byte is polled and its answer queued (R166). -/
def padDrain : List Byte → State → State
  | [], s => s
  | b :: bytes, s => padDrain bytes (pushOut [(padAnswer s).reply] (padPollCall b s))

/-- `Sio2Pad(base)` (R166). -/
def sio2Pad (s : State) : State :=
  let t := pushOut [(padAnswer s).reply] (padStartCall s.blk.sio2.port s.blk.sio2.slot s)
  padDrain t.blk.fifoIn (setFifoIn [] (setRecv1 config.recv1Connected t))

/-- `Sio2Infrared(base)` (R168). -/
def sio2Infrared (base : Nat) (s : State) : Result :=
  popIn (setRecv1 config.recv1Disconnected s) fun _ s =>
    .next (padReplyTo s.blk.sio2.commandLength Codes.infraredFill base s)

/-- `Sio2UnknownMode(base)` (R169). -/
def sio2UnknownMode (s : State) : State := setRecv1 config.recv1Disconnected (pushOut [config.deadAir] s)

/-- `Sio2Dispatch(mode, base)` (R164). -/
def sio2Dispatch (m : Byte) (base : Nat) (s : State) : Result :=
  match frameModeOf m with
  | .pad => .next (sio2Pad s)
  | .multitap => sio2Multitap base s
  | .infrared => sio2Infrared base s
  | .memcard => sio2Memcard base s
  | .unknown => .next (sio2UnknownMode s)

/-- `Sio2DmaPad()` (R170), which does nothing for direct writes. -/
def sio2DmaPad (s : State) : State :=
  let b := s.blk.sio2.dmaBlockSize
  let k := s.blk.fifoOut.length % b
  if 0 < b ∧ 0 < k then pushOut (List.replicate (b - k) config.deadAir) s else s

/-- The cursor advance of a completed frame (R165). -/
def sio2Advance (s : State) : State :=
  setSio2 { s.blk.sio2 with send3Read := false, send3Position := s.blk.sio2.send3Position + 1 } s

/-- A completed frame: cursor, mode byte, handler, DMA padding (steps 3 to 6 of R160). -/
def sio2Complete (s : State) : Result :=
  popIn (sio2Advance s) fun m t => andThen (sio2Dispatch m (replyBase s) t) fun t => .next (sio2DmaPad t)

/-- `Sio2Write(b)` (R160). In the order of R160 and R288(e) the entry is decoded before the test for the end of the
cycle, also where send3Complete is true and send3Read false, which only a checkpoint image holds; R104, R161 and the
table of R165 say that such a write changes nothing (log 26). -/
def sio2Write (b : Byte) (s : State) : Result :=
  let s := if s.blk.sio2.send3Read then s else sio2DecodeEntry s
  if s.blk.sio2.send3Complete then .next s
  else
    let s := setFifoIn (s.blk.fifoIn ++ [b]) s
    if s.blk.fifoIn.length = frameTarget s.blk.sio2 then sio2Complete s else .next s

/-- `SEND b0 ... bk` of 30_encoding.md R78: the host writes the bytes of a frame to DATA_IN, one after the other
(R68). -/
def sendFrame : List Byte → State → Result
  | [], s => .next s
  | b :: bytes, s => andThen (sio2Write b s) (sendFrame bytes)

end Sys2Proof.Machine
end

