-- ==== Sys2Proof/Machine/Frames.lean ====
section
/-! DEFINITION. The meanings of the S2F rows: the host sends the frame's bytes to SIO2 DATA_IN (30_encoding.md R68,
R78), each write being one DATA_IN write of the sequencer (log 9). When the SEND3 entry frames exactly these
bytes, the last one runs the handler of the row's rule; otherwise the bytes do what R160 to R163 say of
them. The handlers are in Sequencer.lean, Multitap.lean, MemcardPs2.lean and Ps1Card.lean. -/

namespace Sys2Proof.Machine

/-- S2.PAD (R166). -/
def execS2Pad (rest : List Byte) (s : State) : Result := sendFrame (config.modePad :: rest) s

/-- S2.MTAP_DISABLED (R190). -/
def execS2MtapDisabled (rest : List Byte) (s : State) : Result := sendFrame (config.modeMultitap :: rest) s

/-- MTAP.PAD_SUPPORT_CHECK (R193). -/
def execMtapPadSupportCheck (rest : List Byte) (s : State) : Result :=
  sendFrame (config.modeMultitap :: config.mtapPadSupportCheck :: rest) s

/-- MTAP.MEMCARD_SUPPORT_CHECK (R193). -/
def execMtapMemcardSupportCheck (rest : List Byte) (s : State) : Result :=
  sendFrame (config.modeMultitap :: config.mtapMemcardSupportCheck :: rest) s

/-- MTAP.SELECT_PAD (R194). -/
def execMtapSelectPad (i : Byte) (rest : List Byte) (s : State) : Result :=
  sendFrame (config.modeMultitap :: config.mtapSelectPad :: i :: rest) s

/-- MTAP.SELECT_MEMCARD (R194). -/
def execMtapSelectMemcard (i : Byte) (rest : List Byte) (s : State) : Result :=
  sendFrame (config.modeMultitap :: config.mtapSelectMemcard :: i :: rest) s

/-- MTAP.UNKNOWN (R196). -/
def execMtapUnknown (c : Byte) (rest : List Byte) (s : State) : Result :=
  sendFrame (config.modeMultitap :: c :: rest) s

/-- S2.INFRARED (R168). -/
def execS2Infrared (x : Byte) (rest : List Byte) (s : State) : Result :=
  sendFrame (config.modeInfrared :: x :: rest) s

/-- S2.UNKNOWN_MODE (R169). -/
def execS2UnknownMode (m : Byte) (rest : List Byte) (s : State) : Result := sendFrame (m :: rest) s

/-- MC.PROBE (R206). -/
def execMcProbe (rest : List Byte) (s : State) : Result := sendFrame (config.modeMemcard :: config.mcProbe :: rest) s

/-- MC.SET_ERASE_SECTOR (R210). -/
def execMcSetEraseSector (a : Byte) (b : Byte) (c : Byte) (d : Byte) (k : Byte) (rest : List Byte) (s : State) : Result :=
  sendFrame (config.modeMemcard :: config.mcSetEraseSector :: a :: b :: c :: d :: k :: rest) s

/-- MC.SET_WRITE_SECTOR (R210). -/
def execMcSetWriteSector (a : Byte) (b : Byte) (c : Byte) (d : Byte) (k : Byte) (rest : List Byte) (s : State) : Result :=
  sendFrame (config.modeMemcard :: config.mcSetWriteSector :: a :: b :: c :: d :: k :: rest) s

/-- MC.SET_READ_SECTOR (R210). -/
def execMcSetReadSector (a : Byte) (b : Byte) (c : Byte) (d : Byte) (k : Byte) (rest : List Byte) (s : State) : Result :=
  sendFrame (config.modeMemcard :: config.mcSetReadSector :: a :: b :: c :: d :: k :: rest) s

/-- MC.GET_SPECS (R212). -/
def execMcGetSpecs (rest : List Byte) (s : State) : Result :=
  sendFrame (config.modeMemcard :: config.mcGetSpecs :: rest) s

/-- MC.SET_TERMINATOR (R214). -/
def execMcSetTerminator (t : Byte) (rest : List Byte) (s : State) : Result :=
  sendFrame (config.modeMemcard :: config.mcSetTerminator :: t :: rest) s

/-- MC.GET_TERMINATOR (R216). -/
def execMcGetTerminator (rest : List Byte) (s : State) : Result :=
  sendFrame (config.modeMemcard :: config.mcGetTerminator :: rest) s

/-- MC.WRITE_DATA (R218). -/
def execMcWriteData (l : Byte) (rest : List Byte) (s : State) : Result :=
  sendFrame (config.modeMemcard :: config.mcWriteData :: l :: rest) s

/-- MC.READ_DATA (R220). -/
def execMcReadData (l : Byte) (rest : List Byte) (s : State) : Result :=
  sendFrame (config.modeMemcard :: config.mcReadData :: l :: rest) s

/-- MC.PS1_READ (R244). -/
def execMcPs1Read (rest : List Byte) (s : State) : Result :=
  sendFrame (config.modeMemcard :: config.ps1Read :: rest) s

/-- MC.PS1_STATE (R260). -/
def execMcPs1State (rest : List Byte) (s : State) : Result :=
  sendFrame (config.modeMemcard :: config.ps1State :: rest) s

/-- MC.PS1_WRITE (R252). -/
def execMcPs1Write (rest : List Byte) (s : State) : Result :=
  sendFrame (config.modeMemcard :: config.ps1Write :: rest) s

/-- MC.PS1_POCKETSTATION (R262). -/
def execMcPs1Pocketstation (rest : List Byte) (s : State) : Result :=
  sendFrame (config.modeMemcard :: config.ps1Pocketstation :: rest) s

/-- MC.READ_WRITE_END (R222). -/
def execMcReadWriteEnd (rest : List Byte) (s : State) : Result :=
  sendFrame (config.modeMemcard :: config.mcReadWriteEnd :: rest) s

/-- MC.ERASE_BLOCK (R224). -/
def execMcEraseBlock (rest : List Byte) (s : State) : Result :=
  sendFrame (config.modeMemcard :: config.mcEraseBlock :: rest) s

/-- MC.UNKNOWN_BOOT (R225). -/
def execMcUnknownBoot (rest : List Byte) (s : State) : Result :=
  sendFrame (config.modeMemcard :: config.mcUnknownBoot :: rest) s

/-- MC.AUTH_XOR.00 (R228). -/
def execMcAuthXor00 (rest : List Byte) (s : State) : Result :=
  sendFrame (config.modeMemcard :: config.mcAuthXor :: 0x00 :: rest) s

/-- MC.AUTH_XOR.01 (R227). -/
def execMcAuthXor01 (rest : List Byte) (s : State) : Result :=
  sendFrame (config.modeMemcard :: config.mcAuthXor :: 0x01 :: rest) s

/-- MC.AUTH_XOR.02 (R227). -/
def execMcAuthXor02 (rest : List Byte) (s : State) : Result :=
  sendFrame (config.modeMemcard :: config.mcAuthXor :: 0x02 :: rest) s

/-- MC.AUTH_XOR.03 (R228). -/
def execMcAuthXor03 (rest : List Byte) (s : State) : Result :=
  sendFrame (config.modeMemcard :: config.mcAuthXor :: 0x03 :: rest) s

/-- MC.AUTH_XOR.04 (R227). -/
def execMcAuthXor04 (rest : List Byte) (s : State) : Result :=
  sendFrame (config.modeMemcard :: config.mcAuthXor :: 0x04 :: rest) s

/-- MC.AUTH_XOR.05 (R228). -/
def execMcAuthXor05 (rest : List Byte) (s : State) : Result :=
  sendFrame (config.modeMemcard :: config.mcAuthXor :: 0x05 :: rest) s

/-- MC.AUTH_XOR.06 (R229). -/
def execMcAuthXor06 (rest : List Byte) (s : State) : Result :=
  sendFrame (config.modeMemcard :: config.mcAuthXor :: 0x06 :: rest) s

/-- MC.AUTH_XOR.07 (R229). -/
def execMcAuthXor07 (rest : List Byte) (s : State) : Result :=
  sendFrame (config.modeMemcard :: config.mcAuthXor :: 0x07 :: rest) s

/-- MC.AUTH_XOR.08 (R228). -/
def execMcAuthXor08 (rest : List Byte) (s : State) : Result :=
  sendFrame (config.modeMemcard :: config.mcAuthXor :: 0x08 :: rest) s

/-- MC.AUTH_XOR.09 (R228). -/
def execMcAuthXor09 (rest : List Byte) (s : State) : Result :=
  sendFrame (config.modeMemcard :: config.mcAuthXor :: 0x09 :: rest) s

/-- MC.AUTH_XOR.0A (R228). -/
def execMcAuthXor0A (rest : List Byte) (s : State) : Result :=
  sendFrame (config.modeMemcard :: config.mcAuthXor :: 0x0A :: rest) s

/-- MC.AUTH_XOR.0B (R229). -/
def execMcAuthXor0B (rest : List Byte) (s : State) : Result :=
  sendFrame (config.modeMemcard :: config.mcAuthXor :: 0x0B :: rest) s

/-- MC.AUTH_XOR.0C (R228). -/
def execMcAuthXor0C (rest : List Byte) (s : State) : Result :=
  sendFrame (config.modeMemcard :: config.mcAuthXor :: 0x0C :: rest) s

/-- MC.AUTH_XOR.0D (R228). -/
def execMcAuthXor0D (rest : List Byte) (s : State) : Result :=
  sendFrame (config.modeMemcard :: config.mcAuthXor :: 0x0D :: rest) s

/-- MC.AUTH_XOR.0E (R228). -/
def execMcAuthXor0E (rest : List Byte) (s : State) : Result :=
  sendFrame (config.modeMemcard :: config.mcAuthXor :: 0x0E :: rest) s

/-- MC.AUTH_XOR.0F (R227). -/
def execMcAuthXor0F (rest : List Byte) (s : State) : Result :=
  sendFrame (config.modeMemcard :: config.mcAuthXor :: 0x0F :: rest) s

/-- MC.AUTH_XOR.10 (R228). -/
def execMcAuthXor10 (rest : List Byte) (s : State) : Result :=
  sendFrame (config.modeMemcard :: config.mcAuthXor :: 0x10 :: rest) s

/-- MC.AUTH_XOR.11 (R227). -/
def execMcAuthXor11 (rest : List Byte) (s : State) : Result :=
  sendFrame (config.modeMemcard :: config.mcAuthXor :: 0x11 :: rest) s

/-- MC.AUTH_XOR.12 (R228). -/
def execMcAuthXor12 (rest : List Byte) (s : State) : Result :=
  sendFrame (config.modeMemcard :: config.mcAuthXor :: 0x12 :: rest) s

/-- MC.AUTH_XOR.13 (R227). -/
def execMcAuthXor13 (rest : List Byte) (s : State) : Result :=
  sendFrame (config.modeMemcard :: config.mcAuthXor :: 0x13 :: rest) s

/-- MC.AUTH_XOR.14 (R228). -/
def execMcAuthXor14 (rest : List Byte) (s : State) : Result :=
  sendFrame (config.modeMemcard :: config.mcAuthXor :: 0x14 :: rest) s

/-- MC.AUTH_XOR.UNKNOWN (R231). -/
def execMcAuthXorUnknown (sub : Byte) (rest : List Byte) (s : State) : Result :=
  sendFrame (config.modeMemcard :: config.mcAuthXor :: sub :: rest) s

/-- MC.AUTH_F3 (R230). -/
def execMcAuthF3 (rest : List Byte) (s : State) : Result :=
  sendFrame (config.modeMemcard :: config.mcAuthF3 :: rest) s

/-- MC.AUTH_F7 (R230). -/
def execMcAuthF7 (rest : List Byte) (s : State) : Result :=
  sendFrame (config.modeMemcard :: config.mcAuthF7 :: rest) s

/-- MC.UNKNOWN (R232). -/
def execMcUnknown (c : Byte) (rest : List Byte) (s : State) : Result := sendFrame (config.modeMemcard :: c :: rest) s

end Sys2Proof.Machine
end

