-- ==== Sys2Proof/Machine/Sio0Protocol.lean ====
section
/-! DEFINITION. The SIO0 legacy protocol state machine, 41_sio0_protocol.md: what one byte written to SIO0 TX_DATA
does as a function of the stage, the TX_DATA write around it (40_host_register_ops.md R90), and the host's
sending of a whole transaction. -/

namespace Sys2Proof.Machine

/-- The physical port SIO0 addresses; its slot is always 0 (10_state.md R15). -/
def sio0Port (s : State) : Port := s.blk.sio0Port

/-- The stage and mode of the state machine. -/
def setStage (stage : Stage) (mode : SioMode) (s : State) : State :=
  setSio0 { s.blk.sio0 with stage := stage, sioMode := mode } s

/-- IDLE, the PAD mode byte (R131). -/
def s0PadMode (s : State) : Byte × State :=
  let r := (padAnswer s).reply
  (r, setStage .waitingCommand .pad (ackIf (r != 0) (padStartCall (sio0Port s) 0 s)))

/-- IDLE, the MEMCARD mode byte (R132): auto-eject before absence (R288). -/
def s0MemcardMode (s : State) : Byte × State :=
  let p := sio0Port s
  if 0 < (slotRec p 0 s).autoEjectTicks then (config.deadAir, countAccess p 0 s)
  else if ((cardInput p 0 s).present && (cardInput p 0 s).isPSX) = false then (config.deadAir, s)
  else (config.deadAir, setStage .waitingCommand .memcard (ackIf true s))

/-- Stage IDLE: the mode byte (R131 to R133). -/
def s0Idle (b : Byte) (s : State) : Byte × State :=
  if b = config.modePad then s0PadMode s
  else if b = config.modeMemcard then s0MemcardMode s
  else (config.deadAir, s)

/-- A byte forwarded to the pad: acknowledged while the pad has more to exchange (R134, R139). -/
def s0PadPoll (b : Byte) (s : State) : Byte × State :=
  ((padAnswer s).reply, ackIf (!(padAnswer s).complete) (padPollCall b s))

/-- A command byte that WAITING_COMMAND does not recognise: 0xFF and the implicit stage reset (R135, R138, R286). -/
def s0Unrecognised (s : State) : Byte × State := (Codes.violation, sio0SoftReset s)

/-- Stage WAITING_COMMAND, PAD (R134, R135). -/
def s0PadCommand (b : Byte) (s : State) : Byte × State :=
  if Codes.isPadCommand b then ((s0PadPoll b s).1, setStage .working .pad (s0PadPoll b s).2)
  else s0Unrecognised s

/-- A PS1 command is latched (R136). -/
def s0Latch (b : Byte) (s : State) : Byte × State :=
  ((slotRec (sio0Port s) 0 s).flag,
    setStage .working .memcard
      (ackIf true (ps1Reset (setSio0 { s.blk.sio0 with command := b } s))))

/-- Stage WAITING_COMMAND, MEMCARD (R136 to R138). -/
def s0MemcardCommand (b : Byte) (s : State) : Byte × State :=
  match ps1CommandOf b with
  | .read => s0Latch b s
  | .state => s0Latch b s
  | .write => s0Latch b s
  | .pocketstation => (config.deadAir, setStage .idle .notSet s)
  | .unknown => s0Unrecognised s

/-- Stage WORKING without a handler to forward to, which only a checkpoint image holds (R277): a dead byte, 0x00 or
0xFF, no acknowledge (R142, R285). Which of the two is a free value, and that the stage stays WORKING (R141) is read
from the spec by inference (log 14). -/
def s0Desync (s : State) : Byte × State :=
  (if Config.desyncAnswersFF s.freeCount then Codes.violation else config.deadAir, drawFree s)

/-- Stage WORKING, MEMCARD: the latched command's handler (R140). -/
def s0MemcardBody (b : Byte) (s : State) : Byte × State :=
  match ps1CommandOf s.blk.sio0.command with
  | .read => ps1Read (sio0Port s) 0 b s
  | .state => ps1State s
  | .write => ps1Write (sio0Port s) 0 b s
  | .pocketstation => s0Desync s
  | .unknown => s0Desync s

/-- `Sio0Step(b)` (R130): the reply byte and the state after it. The combinations with NOT_SET outside IDLE, which the
table of R130 leaves out, are resolved as R285 says (log 14): no command is recognised without a mode, and no byte has
a handler. -/
def sio0Step (b : Byte) (s : State) : Byte × State :=
  match s.blk.sio0.stage, s.blk.sio0.sioMode with
  | .idle, _ => s0Idle b s
  | .waitingCommand, .pad => s0PadCommand b s
  | .waitingCommand, .memcard => s0MemcardCommand b s
  | .waitingCommand, .notSet => s0Unrecognised s
  | .working, .pad => s0PadPoll b s
  | .working, .memcard => s0MemcardBody b s
  | .working, .notSet => s0Desync s

/-- The byte is stored and the three status bits are set (R90). -/
def txStored (b : Byte) (s : State) : State :=
  setSio0 { s.blk.sio0 with txData := b, stat := statAfterTx s.blk.sio0.stat } s

/-- The reply is stored and the interrupt requested (R90). -/
def txReplied (r : Byte) (s : State) : State := raiseIrq .sio0 (setSio0 { s.blk.sio0 with rxData := r } s)

/-- Whether SIO0_TX_ENABLE_GATES holds the write back (92_eei_decisions.md D6; log 15). -/
def txGated (s : State) : Bool :=
  s.params.sio0TxEnableGates && !s.blk.sio0.ctrl.getLsbD config.ctrlTxEnable

/-- `WR8 SIO0.TX_DATA, b` (R90). -/
def txWrite (b : Byte) (s : State) : Result :=
  if txGated s then .next s
  else .next (txReplied (sio0Step b (txStored b s)).1 (sio0Step b (txStored b s)).2)

/-- The host writes the bytes of a transaction to TX_DATA, one after the other (R70). -/
def sendTransaction : List Byte → State → Result
  | [], s => .next s
  | b :: bytes, s => andThen (txWrite b s) (sendTransaction bytes)

end Sys2Proof.Machine
end

