-- ==== Sys2Proof/Machine/HostSio0.lean ====
section
/-! DEFINITION. The host register operations of SIO0, 40_host_register_ops.md R90 to R97. -/

namespace Sys2Proof.Machine

/-- WR8_SIO0.TX_DATA (R90). -/
def execWr8Sio0TxData (b : Byte) (s : State) : Result := txWrite b s

/-- RD8_SIO0.RX_DATA (R91). -/
def execRd8Sio0RxData (s : State) : Result :=
  .next (emit (.read8 s.blk.sio0.rxData) (setStat (clearBits s.blk.sio0.stat config.statRxFifoNotEmpty) s))

/-- RD32_SIO0.STAT (R92): the value before the clear. -/
def execRd32Sio0Stat (s : State) : Result :=
  .next (emit (.read32 s.blk.sio0.stat) (setStat (clearBits s.blk.sio0.stat config.statAck) s))

/-- WR32_SIO0.STAT (R93): STAT is read-only. -/
def execWr32Sio0Stat (_v : Word) (s : State) : Result := .next s

/-- The value-0 arm of a CTRL write (R94). -/
def ctrlZeroArm (v : Half) (s : State) : State := if v = 0 then sio0SoftReset s else s

/-- The ACK arm of a CTRL write (R94). -/
def ctrlAckArm (v : Half) (s : State) : State :=
  if v.getLsbD config.ctrlAck then
    setSio0
      { s.blk.sio0 with
        ctrl := s.blk.sio0.ctrl &&& Codes.ctrlWithoutAck
        stat := statAfterCtrlAck s.blk.sio0.stat } s
  else s

/-- The RESET arm of a CTRL write (R94). -/
def ctrlResetArm (v : Half) (s : State) : State :=
  if v.getLsbD config.ctrlReset then
    sio0SoftReset (setSio0 { s.blk.sio0 with stat := 0, ctrl := 0, mode := 0, rxData := 0, txData := 0 } s)
  else s

/-- WR16_SIO0.CTRL (R94): store, value 0, ACK, RESET, in that order (R288). -/
def execWr16Sio0Ctrl (v : Half) (s : State) : Result :=
  .next (ctrlResetArm v (ctrlAckArm v (ctrlZeroArm v (setSio0 { s.blk.sio0 with ctrl := v } s))))

/-- RD16_SIO0.CTRL (R95). -/
def execRd16Sio0Ctrl (s : State) : Result := .next (emit (.read16 s.blk.sio0.ctrl) s)

/-- WR16_SIO0.MODE (R96). -/
def execWr16Sio0Mode (v : Half) (s : State) : Result := .next (setSio0 { s.blk.sio0 with mode := v } s)

/-- RD16_SIO0.MODE (R97). -/
def execRd16Sio0Mode (s : State) : Result := .next (emit (.read16 s.blk.sio0.mode) s)

end Sys2Proof.Machine
end

