-- ==== Sys2Proof/Machine/HostSio2.lean ====
section
/-! DEFINITION. The host register operations of SIO2, 40_host_register_ops.md R100 to R109. -/

namespace Sys2Proof.Machine

/-- WR32_SIO2.SEND3_i (R100): the write of entry 0 restarts the sequence. -/
def execWr32Sio2Send3 (i : Fin sizes.send3Entries) (w : Word) (s : State) : Result :=
  let s := setSio2 { s.blk.sio2 with send3 := s.blk.sio2.send3.set i w } s
  .next (if i = 0 then sio2SoftReset s else s)

/-- RD32_SIO2.SEND3_i (R101). -/
def execRd32Sio2Send3 (i : Fin sizes.send3Entries) (s : State) : Result := .next (emit (.read32 s.blk.sio2.send3[i]) s)

/-- WR32_SIO2.SEND1_i (R102). -/
def execWr32Sio2Send1 (i : Fin sizes.send1Entries) (w : Word) (s : State) : Result :=
  .next (setSio2 { s.blk.sio2 with send1 := s.blk.sio2.send1.set i w } s)

/-- RD32_SIO2.SEND1_i (R103). -/
def execRd32Sio2Send1 (i : Fin sizes.send1Entries) (s : State) : Result := .next (emit (.read32 s.blk.sio2.send1[i]) s)

/-- WR32_SIO2.SEND2_i (R102). -/
def execWr32Sio2Send2 (i : Fin sizes.send2Entries) (w : Word) (s : State) : Result :=
  .next (setSio2 { s.blk.sio2 with send2 := s.blk.sio2.send2.set i w } s)

/-- RD32_SIO2.SEND2_i (R103). -/
def execRd32Sio2Send2 (i : Fin sizes.send2Entries) (s : State) : Result := .next (emit (.read32 s.blk.sio2.send2[i]) s)

/-- WR8_SIO2.DATA_IN (R104). -/
def execWr8Sio2DataIn (b : Byte) (s : State) : Result := sio2Write b s

/-- RD8_SIO2.DATA_OUT (R105): 0x00 from the empty queue, which it leaves as it is. -/
def execRd8Sio2DataOut (s : State) : Result :=
  match s.blk.fifoOut with
  | [] => .next (emit (.read8 config.deadAir) s)
  | b :: bytes => .next (emit (.read8 b) (setFifoOut bytes s))

/-- Whether a CTRL write requests the interrupt (R106, SIO2_IRQ_NEEDS_START). -/
def ctrlRequests (v : Word) (s : State) : Bool :=
  !s.params.sio2IrqNeedsStart || v.getLsbD Codes.sio2StartTransfer

/-- WR32_SIO2.CTRL (R106). -/
def execWr32Sio2Ctrl (v : Word) (s : State) : Result :=
  let t := setSio2 { s.blk.sio2 with ctrl := v } s
  .next (if ctrlRequests v s then raiseIrq .sio2 t else t)

/-- RD32_SIO2.CTRL (R107). -/
def execRd32Sio2Ctrl (s : State) : Result := .next (emit (.read32 s.blk.sio2.ctrl) s)

/-- RD32_SIO2.RECV1 (R108). -/
def execRd32Sio2Recv1 (s : State) : Result := .next (emit (.read32 s.blk.sio2.recv1) s)

/-- WR32_SIO2.RECV1 (R109): changes nothing. -/
def execWr32Sio2Recv1 (_v : Word) (s : State) : Result := .next s

/-- RD32_SIO2.RECV2 (R108). -/
def execRd32Sio2Recv2 (s : State) : Result := .next (emit (.read32 s.blk.sio2.recv2) s)

/-- WR32_SIO2.RECV2 (R109): changes nothing. -/
def execWr32Sio2Recv2 (_v : Word) (s : State) : Result := .next s

/-- RD32_SIO2.RECV3 (R108). -/
def execRd32Sio2Recv3 (s : State) : Result := .next (emit (.read32 s.blk.sio2.recv3) s)

/-- WR32_SIO2.RECV3 (R109): changes nothing. -/
def execWr32Sio2Recv3 (_v : Word) (s : State) : Result := .next s

end Sys2Proof.Machine
end

