-- ==== Sys2Proof/Machine/Pins.lean ====
section
/-! DEFINITION. The control inputs: hard reset (70_reset_and_hazards.md R310), the DMA block size
(40_host_register_ops.md R110), the auto-eject inputs and the checkpoint load (46_autoeject.md R273 to
R277). -/

namespace Sys2Proof.Machine

/-- PIN_HARD_RESET (R310): every element of the block takes its value of R29; cards, inputs and parameters are no
state of the block. -/
def execPinHardReset (s : State) : Result := .next { s with blk := Block.reset }

/-- PIN_DMA_SET_BLOCK (R110). -/
def execPinDmaSetBlock (size : Nat) (s : State) : Result :=
  .next (setSio2 { s.blk.sio2 with dmaBlockSize := size } s)

/-- PIN_AE_SET (R273): reloads the full count, armed or not. -/
def execPinAeSet (p : Port) (q : Slot) (s : State) : Result := .next (setTicks p q s.params.autoEjectTicks s)

/-- PIN_AE_CLEAR (R274). -/
def execPinAeClear (p : Port) (q : Slot) (s : State) : Result := .next (setTicks p q 0 s)

/-- PIN_AE_SETALL (R275). -/
def execPinAeSetall (s : State) : Result := .next (setAllTicks s.params.autoEjectTicks s)

/-- PIN_AE_CLEARALL (R276). -/
def execPinAeClearall (s : State) : Result := .next (setAllTicks 0 s)

/-- Some card's CRC differs from the one the image recorded (R277). -/
def crcDiffers (image : Image) (s : State) : Bool :=
  allSlots.any fun pq => (cardInput pq.1 pq.2 s).crc != entryAt image.crc pq.1 pq.2

/-- PIN_CHECKPOINT_LOAD (R277): every field and both queues replaced; one differing card arms all eight slots. -/
def execPinCheckpointLoad (image : Image) (s : State) : Result :=
  let t := { s with blk := image.state }
  .next (if crcDiffers image s then setAllTicks s.params.autoEjectTicks t else t)

end Sys2Proof.Machine
end

