-- ==== Sys2Proof/Machine/Transactions.lean ====
section
/-! DEFINITION. The meanings of the S0F rows: the host sends the transaction's bytes to SIO0 TX_DATA (30_encoding.md
R70), each write being one TX_DATA write (log 9). From stage IDLE the first byte is the mode byte (R131 to
R133), the second the command (R134 to R138), the rest the body (R139, R140). The handlers are in
Sio0Protocol.lean and Ps1Card.lean. -/

namespace Sys2Proof.Machine

/-- S0.PAD (R134). -/
def execS0Pad (c : BitVec 4) (rest : List Byte) (s : State) : Result :=
  sendTransaction (config.modePad :: padCommandByte c :: rest) s

/-- S0.PAD_UNKNOWN (R135). -/
def execS0PadUnknown (c : Byte) (s : State) : Result := sendTransaction [config.modePad, c] s

/-- S0.PS1_READ (R244). -/
def execS0Ps1Read (rest : List Byte) (s : State) : Result :=
  sendTransaction (config.modeMemcard :: config.ps1Read :: rest) s

/-- S0.PS1_STATE (R260). -/
def execS0Ps1State (rest : List Byte) (s : State) : Result :=
  sendTransaction (config.modeMemcard :: config.ps1State :: rest) s

/-- S0.PS1_WRITE (R252). -/
def execS0Ps1Write (rest : List Byte) (s : State) : Result :=
  sendTransaction (config.modeMemcard :: config.ps1Write :: rest) s

/-- S0.PS1_POCKETSTATION (R137). -/
def execS0Ps1Pocketstation (s : State) : Result := sendTransaction [config.modeMemcard, config.ps1Pocketstation] s

/-- S0.MEMCARD_UNKNOWN (R138). -/
def execS0MemcardUnknown (c : Byte) (s : State) : Result := sendTransaction [config.modeMemcard, c] s

/-- S0.UNKNOWN_MODE (R133). -/
def execS0UnknownMode (m : Byte) (s : State) : Result := sendTransaction [m] s

end Sys2Proof.Machine
end

