-- ==== Sys2Proof/Machine/Dispatch.lean ====
section
/-! DEFINITION. The dispatch: one arm per constructor of `Instr`, each one call of its meaning. -/

namespace Sys2Proof.Machine

def exec (i : Instr) (s : State) : Host.Outcome State Fault Refusal :=
  match i with
  | .wr8Sio0TxData b => Sys2Proof.Machine.execWr8Sio0TxData b s
  | .rd8Sio0RxData => Sys2Proof.Machine.execRd8Sio0RxData s
  | .rd32Sio0Stat => Sys2Proof.Machine.execRd32Sio0Stat s
  | .wr32Sio0Stat v => Sys2Proof.Machine.execWr32Sio0Stat v s
  | .wr16Sio0Ctrl v => Sys2Proof.Machine.execWr16Sio0Ctrl v s
  | .rd16Sio0Ctrl => Sys2Proof.Machine.execRd16Sio0Ctrl s
  | .wr16Sio0Mode v => Sys2Proof.Machine.execWr16Sio0Mode v s
  | .rd16Sio0Mode => Sys2Proof.Machine.execRd16Sio0Mode s
  | .wr32Sio2Send3 k w => Sys2Proof.Machine.execWr32Sio2Send3 k w s
  | .rd32Sio2Send3 k => Sys2Proof.Machine.execRd32Sio2Send3 k s
  | .wr32Sio2Send1 k w => Sys2Proof.Machine.execWr32Sio2Send1 k w s
  | .rd32Sio2Send1 k => Sys2Proof.Machine.execRd32Sio2Send1 k s
  | .wr32Sio2Send2 k w => Sys2Proof.Machine.execWr32Sio2Send2 k w s
  | .rd32Sio2Send2 k => Sys2Proof.Machine.execRd32Sio2Send2 k s
  | .wr8Sio2DataIn b => Sys2Proof.Machine.execWr8Sio2DataIn b s
  | .rd8Sio2DataOut => Sys2Proof.Machine.execRd8Sio2DataOut s
  | .wr32Sio2Ctrl v => Sys2Proof.Machine.execWr32Sio2Ctrl v s
  | .rd32Sio2Ctrl => Sys2Proof.Machine.execRd32Sio2Ctrl s
  | .rd32Sio2Recv1 => Sys2Proof.Machine.execRd32Sio2Recv1 s
  | .wr32Sio2Recv1 v => Sys2Proof.Machine.execWr32Sio2Recv1 v s
  | .rd32Sio2Recv2 => Sys2Proof.Machine.execRd32Sio2Recv2 s
  | .wr32Sio2Recv2 v => Sys2Proof.Machine.execWr32Sio2Recv2 v s
  | .rd32Sio2Recv3 => Sys2Proof.Machine.execRd32Sio2Recv3 s
  | .wr32Sio2Recv3 v => Sys2Proof.Machine.execWr32Sio2Recv3 v s
  | .pinHardReset => Sys2Proof.Machine.execPinHardReset s
  | .pinDmaSetBlock size => Sys2Proof.Machine.execPinDmaSetBlock size s
  | .pinAeSet p q => Sys2Proof.Machine.execPinAeSet p q s
  | .pinAeClear p q => Sys2Proof.Machine.execPinAeClear p q s
  | .pinAeSetall => Sys2Proof.Machine.execPinAeSetall s
  | .pinAeClearall => Sys2Proof.Machine.execPinAeClearall s
  | .pinCheckpointLoad image => Sys2Proof.Machine.execPinCheckpointLoad image s
  | .s2Pad rest => Sys2Proof.Machine.execS2Pad rest s
  | .s2MtapDisabled rest => Sys2Proof.Machine.execS2MtapDisabled rest s
  | .mtapPadSupportCheck rest => Sys2Proof.Machine.execMtapPadSupportCheck rest s
  | .mtapMemcardSupportCheck rest => Sys2Proof.Machine.execMtapMemcardSupportCheck rest s
  | .mtapSelectPad k rest => Sys2Proof.Machine.execMtapSelectPad k rest s
  | .mtapSelectMemcard k rest => Sys2Proof.Machine.execMtapSelectMemcard k rest s
  | .mtapUnknown c rest => Sys2Proof.Machine.execMtapUnknown c rest s
  | .s2Infrared x rest => Sys2Proof.Machine.execS2Infrared x rest s
  | .s2UnknownMode m rest => Sys2Proof.Machine.execS2UnknownMode m rest s
  | .mcProbe rest => Sys2Proof.Machine.execMcProbe rest s
  | .mcSetEraseSector a b c d k rest => Sys2Proof.Machine.execMcSetEraseSector a b c d k rest s
  | .mcSetWriteSector a b c d k rest => Sys2Proof.Machine.execMcSetWriteSector a b c d k rest s
  | .mcSetReadSector a b c d k rest => Sys2Proof.Machine.execMcSetReadSector a b c d k rest s
  | .mcGetSpecs rest => Sys2Proof.Machine.execMcGetSpecs rest s
  | .mcSetTerminator t rest => Sys2Proof.Machine.execMcSetTerminator t rest s
  | .mcGetTerminator rest => Sys2Proof.Machine.execMcGetTerminator rest s
  | .mcWriteData l rest => Sys2Proof.Machine.execMcWriteData l rest s
  | .mcReadData l rest => Sys2Proof.Machine.execMcReadData l rest s
  | .mcPs1Read rest => Sys2Proof.Machine.execMcPs1Read rest s
  | .mcPs1State rest => Sys2Proof.Machine.execMcPs1State rest s
  | .mcPs1Write rest => Sys2Proof.Machine.execMcPs1Write rest s
  | .mcPs1Pocketstation rest => Sys2Proof.Machine.execMcPs1Pocketstation rest s
  | .mcReadWriteEnd rest => Sys2Proof.Machine.execMcReadWriteEnd rest s
  | .mcEraseBlock rest => Sys2Proof.Machine.execMcEraseBlock rest s
  | .mcUnknownBoot rest => Sys2Proof.Machine.execMcUnknownBoot rest s
  | .mcAuthXor00 rest => Sys2Proof.Machine.execMcAuthXor00 rest s
  | .mcAuthXor01 rest => Sys2Proof.Machine.execMcAuthXor01 rest s
  | .mcAuthXor02 rest => Sys2Proof.Machine.execMcAuthXor02 rest s
  | .mcAuthXor03 rest => Sys2Proof.Machine.execMcAuthXor03 rest s
  | .mcAuthXor04 rest => Sys2Proof.Machine.execMcAuthXor04 rest s
  | .mcAuthXor05 rest => Sys2Proof.Machine.execMcAuthXor05 rest s
  | .mcAuthXor06 rest => Sys2Proof.Machine.execMcAuthXor06 rest s
  | .mcAuthXor07 rest => Sys2Proof.Machine.execMcAuthXor07 rest s
  | .mcAuthXor08 rest => Sys2Proof.Machine.execMcAuthXor08 rest s
  | .mcAuthXor09 rest => Sys2Proof.Machine.execMcAuthXor09 rest s
  | .mcAuthXor0A rest => Sys2Proof.Machine.execMcAuthXor0A rest s
  | .mcAuthXor0B rest => Sys2Proof.Machine.execMcAuthXor0B rest s
  | .mcAuthXor0C rest => Sys2Proof.Machine.execMcAuthXor0C rest s
  | .mcAuthXor0D rest => Sys2Proof.Machine.execMcAuthXor0D rest s
  | .mcAuthXor0E rest => Sys2Proof.Machine.execMcAuthXor0E rest s
  | .mcAuthXor0F rest => Sys2Proof.Machine.execMcAuthXor0F rest s
  | .mcAuthXor10 rest => Sys2Proof.Machine.execMcAuthXor10 rest s
  | .mcAuthXor11 rest => Sys2Proof.Machine.execMcAuthXor11 rest s
  | .mcAuthXor12 rest => Sys2Proof.Machine.execMcAuthXor12 rest s
  | .mcAuthXor13 rest => Sys2Proof.Machine.execMcAuthXor13 rest s
  | .mcAuthXor14 rest => Sys2Proof.Machine.execMcAuthXor14 rest s
  | .mcAuthXorUnknown sub rest => Sys2Proof.Machine.execMcAuthXorUnknown sub rest s
  | .mcAuthF3 rest => Sys2Proof.Machine.execMcAuthF3 rest s
  | .mcAuthF7 rest => Sys2Proof.Machine.execMcAuthF7 rest s
  | .mcUnknown c rest => Sys2Proof.Machine.execMcUnknown c rest s
  | .s0Pad c rest => Sys2Proof.Machine.execS0Pad c rest s
  | .s0PadUnknown c => Sys2Proof.Machine.execS0PadUnknown c s
  | .s0Ps1Read rest => Sys2Proof.Machine.execS0Ps1Read rest s
  | .s0Ps1State rest => Sys2Proof.Machine.execS0Ps1State rest s
  | .s0Ps1Write rest => Sys2Proof.Machine.execS0Ps1Write rest s
  | .s0Ps1Pocketstation => Sys2Proof.Machine.execS0Ps1Pocketstation s
  | .s0MemcardUnknown c => Sys2Proof.Machine.execS0MemcardUnknown c s
  | .s0UnknownMode m => Sys2Proof.Machine.execS0UnknownMode m s

end Sys2Proof.Machine
end

