-- ==== Sys2Proof/Machine/Fetch.lean ====
section
/-! DEFINITION. Taking the next operation of the host's stream (20_memory.md R52, log 1): its inputs are latched, its
packet is decoded; and the placing of a table word as that operation. -/

namespace Sys2Proof.Machine

/-- What the block knows of a card that was exchanged is forgotten (log 18). -/
def forgetExchanged (s : State) : State :=
  allSlots.foldl
    (fun t pq => if (cardInput pq.1 pq.2 t).exchanged then setCardMem pq.1 pq.2 [] t else t) s

/-- The answers from outside for the operation are put on the inputs (R8, R28, log 2). -/
def latchInputs (i : Inputs) (s : State) : State := forgetExchanged { s with inputs := i }

/-- The first operation of the stream is taken: it leaves the stream and its inputs are latched. -/
def takeOp (op : HostOp) (rest : List HostOp) (s : State) : State := latchInputs op.inputs { s with pending := rest }

/-- The port the next DATA_IN byte's frame addresses: the one decoded, or the one the entry about to be decoded
names (R162). -/
def framePort (r : Sio2) : Port := if r.send3Read then r.port else (decodedEntry r).port

/-- The enable switch the decoder reads for a frame (30_encoding.md R79, 43_multitap.md R190). -/
def multitapLine (s : State) : Bool := multitapEnabled (framePort s.blk.sio2) s

/-- The decoder on a state's inputs. -/
def fetch (p : Packet) (s : State) : Except DecodeError Instr := decode (multitapLine s) p

/-! ### Placing a table word -/

/-- The inputs under which a table word runs: every slot with a card of the type the row needs (PS1-type for a
transaction, else PS2-type), both multitaps as the row's condition has them. -/
def tableInputs (p : Packet) (nbits : Nat) (i : Inputs) : Inputs where
  pad := i.pad
  card := Vector.replicate sizes.nports (Vector.replicate sizes.nslots
    { CardInput.absent with
      present := true
      isPSX := match p with
        | .transaction _ => true
        | _ => false })
  multitapEnabled := Vector.replicate sizes.nports (tableMultitap nbits)

/-- The sequencer at the start of a cycle whose first entry frames n bytes on port 0, and no bytes queued. -/
def framed (n : Nat) (s : State) : State :=
  setFifoIn []
    (setSio2
      { s.blk.sio2 with
        send3 := s.blk.sio2.send3.set 0 (BitVec.ofNat 32 (n * 256))
        send3Position := 0
        send3Read := false
        send3Complete := false
        dmaBlockSize := 0 } s)

/-- What a packet needs of the block to be run as its row: a frame its SEND3 entry, a transaction stage IDLE. -/
def prepared (p : Packet) (s : State) : State :=
  match p with
  | .frame bytes => framed bytes.length s
  | .transaction _ => setSio0 { s.blk.sio0 with stage := .idle, sioMode := .notSet } s
  | _ => s

/-- A table word placed as the stream's next operation. -/
def placeTableWord (s : State) (nbits w : Nat) : State :=
  let p := tablePacket nbits w
  let t := prepared p s
  { t with pending := { packet := p, inputs := tableInputs p nbits s.inputs } :: t.pending }

end Sys2Proof.Machine
end

