-- ==== Sys2Proof/Machine/Step.lean ====
section
/-! DEFINITION. One step: the next operation of the host's stream is taken and applied. -/

namespace Sys2Proof.Machine

/-- With no operation pending nothing happens: the block executes nothing on its own (10_state.md R29). Otherwise
the first one leaves the stream, its inputs are latched, and the instruction its packet decodes to is
executed (log 1). -/
def step (s : State) : Host.Outcome State Fault Refusal :=
  match s.pending with
  | [] => .next s
  | op :: rest =>
    match fetch op.packet (takeOp op rest s) with
    | .ok i => exec i (takeOp op rest s)
    | .error why => .refused (.rejected why)

/-- s with a table word's instruction stored where `step` takes its next operation (log 10, log 25). -/
def State.withFetchWord (s : State) (nbits w : Nat) : State := placeTableWord s nbits w

end Sys2Proof.Machine
end

