-- ==== Sys2Proof/Safety.lean ====
section
/-! DEFINITION. The terms in which claims about the machine are stated: its invariants, when a frame is accepted
whole, and the state a completed frame leaves. -/

namespace Sys2Proof.Machine

/-! ### Invariants -/

/-- What every state of the machine has, whatever checkpoint was loaded: no STAT bit but the six named ones is set
(R11), the command length is at most 511 (R17), every card memory is in its canonical form (R40), and the auto-eject
constant is at least 1 (R272). -/
def State.wf (s : State) : Bool :=
  s.blk.statReservedClear && s.blk.lengthInRange
    && allSlots.all (fun pq => Memory.wf (cardMem pq.1 pq.2 s)) && decide (0 < s.params.autoEjectTicks)

/-- SIO0's stage, mode and command go together (R14, R130, R140). -/
def Block.sio0Coherent (b : Block) : Bool :=
  match b.sio0.stage, b.sio0.sioMode with
  | .idle, .notSet => true
  | .idle, _ => false
  | .waitingCommand, .notSet => false
  | .waitingCommand, _ => true
  | .working, .notSet => false
  | .working, .pad => true
  | .working, .memcard => ([0x52, 0x53, 0x57] : List Byte).contains b.sio0.command

/-- RX_PARITY_ERROR and IRQ read 0 (R11); ACK and RESET of CTRL never read back 1 (R12). -/
def Block.sio0BitsClear (b : Block) : Bool :=
  !b.sio0.stat.getLsbD 3 && !b.sio0.stat.getLsbD 9 && !b.sio0.ctrl.getLsbD 4 && !b.sio0.ctrl.getLsbD 6

/-- RECV1 has one of its two values, RECV2 and RECV3 their constants (R16). -/
def Block.recvSound (b : Block) : Bool :=
  (b.sio2.recv1 == 0x00001100 || b.sio2.recv1 == 0x0001D100) && b.sio2.recv2 == 0x0000000F && b.sio2.recv3 == 0

/-- The SEND3 cursor is at most 16, and past the table an entry is decoded only as the end of the cycle (R18, R162). -/
def Block.cursorSound (b : Block) : Bool :=
  b.positionInRange && (!b.sio2.send3Read || b.sio2.send3Complete || decide (b.sio2.send3Position < 16))

/-- What every state has that no checkpoint load led to: a checkpoint may install any well-typed state (R277). -/
def State.sound (s : State) : Bool :=
  Block.sio0Coherent s.blk && Block.sio0BitsClear s.blk && Block.recvSound s.blk && Block.cursorSound s.blk
    && decide (2 ≤ s.blk.ps1.cursor)

/-! ### Frames -/

/-- The sequencer is between frames and the next n bytes written to DATA_IN are one whole frame: the next entry is
yet to be decoded, its length is not 0, and n bytes complete the frame (R160 to R163). -/
def frameReady (n : Nat) (s : State) : Bool :=
  !s.blk.sio2.send3Read && !s.blk.sio2.send3Complete && decide (s.blk.sio2.send3Position < 16)
    && decide ((decodedEntry s.blk.sio2).commandLength ≠ 0) && decide (frameTarget (decodedEntry s.blk.sio2) = n)

/-- The bytes a reply's length counts beside the reply itself: none where PAD_BASIS is relative, the spec's setting; the
bytes queued before the frame where it is absolute (R171, 92_eei_decisions.md D25). -/
def alreadyCounted (s : State) : Nat :=
  match s.params.padBasis with
  | .relative => 0
  | .absolute => s.blk.fifoOut.length

/-- The port of the frame about to be sent: its entry's PORT (R162). -/
def nextPort (s : State) : Port := (decodedEntry s.blk.sio2).port

/-- The command length of the frame about to be sent: its entry's CMDLEN (R162). -/
def nextLength (s : State) : Nat := (decodedEntry s.blk.sio2).commandLength

/-- The slot record a memory-card frame about to be sent addresses (R200). -/
def nextSlot (s : State) : SlotRecord := slotRec (nextPort s) s.blk.sio2.slot s

/-- The card a memory-card frame about to be sent addresses (R200). -/
def nextCard (s : State) : CardInput := cardInput (nextPort s) s.blk.sio2.slot s

/-- The addressed slot is not armed and holds a card (R200). -/
def cardAnswers (s : State) : Bool := (nextSlot s).autoEjectTicks == 0 && (nextCard s).present

/-- The preamble of a memory-card reply (R200). -/
def preamble (s : State) : List Byte := [0x00, (nextSlot s).flag]

/-- What a PS1-type card answers a PS2-native command with: the preamble, and zeros up to the frame's command length
(R204). -/
def guardReply (s : State) : List Byte :=
  preamble s ++ List.replicate (nextLength s - 2 - alreadyCounted s) 0x00

/-- A reply of the plain 2b-terminator shape, `total` bytes long: the preamble, zeros, 0x2B, the terminator (R172). -/
def plainReply (total : Nat) (s : State) : List Byte :=
  preamble s ++ List.replicate (total - 4 - alreadyCounted s) 0x00 ++ [0x2B, (nextSlot s).term]

/-- The reply to a PS2-native command: the guard's for a PS1-type card, else the command's own (R204). -/
def nativeReply (s : State) (reply : List Byte) : List Byte := if (nextCard s).isPSX then guardReply s else reply

/-- The exclusive or of a run of bytes, of none 0x00 (R49). -/
def xorOf (bytes : List Byte) : Byte := bytes.foldl (fun x b => x ^^^ b) 0x00

/-- The zeros that fill a queue of a length up to the next multiple of the DMA block (R170). -/
def dmaFill (block length : Nat) : List Byte :=
  if 0 < block ∧ 0 < length % block then List.replicate (block - length % block) 0 else []

/-- The state a whole frame leaves when its handler wrote `recv1`, queued `reply` and left `leftover` in fifoIn, and
wrote nothing else (R160, R165, R170). -/
def frameDone (s : State) (recv1 : Word) (reply leftover : List Byte) : State :=
  { s with
    blk.sio2 :=
      { decodedEntry s.blk.sio2 with
        send3Read := false
        send3Position := s.blk.sio2.send3Position + 1
        recv1 := recv1 }
    blk.fifoIn := leftover
    blk.fifoOut :=
      s.blk.fifoOut ++ reply ++ dmaFill s.blk.sio2.dmaBlockSize (s.blk.fifoOut.length + reply.length) }

/-- The same, and the addressed slot's record replaced. -/
def frameDoneSlot (s : State) (r : SlotRecord) (reply leftover : List Byte) : State :=
  setSlotRec (nextPort s) s.blk.sio2.slot r (frameDone s 0x00001100 reply leftover)

/-! ### The pad, SIO0 -/

/-- The state after one call to the pad: the call recorded, its answer taken off the list, a free value drawn where the
list is at its end (R8; log 3). -/
def padCalled (e : Event) (s : State) : State :=
  { s with
    inputs.pad := s.inputs.pad.tail
    freeCount := s.freeCount + (1 - s.inputs.pad.length)
    events := s.events ++ [e] }

/-- A list of answers that a pad called once for each of them gives: where the inputs list an answer it is that one,
beyond the list any (R8; log 3). -/
def PadAnswers (s : State) (answers : List PadAnswer) : Prop :=
  ∀ (k : Nat) (a : PadAnswer), k < answers.length → s.inputs.pad[k]? = some a → answers[k]? = some a

/-- The state after a run of calls to the pad. -/
def padCalledAll (calls : List Event) (s : State) : State :=
  { s with
    inputs.pad := s.inputs.pad.drop calls.length
    freeCount := s.freeCount + (calls.length - s.inputs.pad.length)
    events := s.events ++ calls }

/-- The state one TX_DATA write leaves when the step replied `reply`, acknowledged or not, went to `stage` and `mode`,
and wrote nothing else: the byte stored, TX_READY, TX_EMPTY, RX_FIFO_NOT_EMPTY set, ACK set or kept, one
IRQ(SIO0) (R90). -/
def txDone (s : State) (b reply : Byte) (ack : Bool) (stage : Stage) (mode : SioMode) : State :=
  { s with
    blk.sio0 :=
      { s.blk.sio0 with
        stat := s.blk.sio0.stat ||| 0x00000007 ||| (if ack then 0x00000080 else 0)
        txData := b
        rxData := reply
        stage := stage
        sioMode := mode }
    events := s.events ++ [.irq .sio0] }

/-- The same, and the PS1 record replaced, in the middle of a PS1 transaction. -/
def ps1Done (s : State) (b reply : Byte) (ack : Bool) (r : Ps1) : State :=
  setPs1 r (txDone s b reply ack .working .memcard)

/-- The port's slot 0 is not armed and holds a PS1-type card (R132). -/
def ps1Answers (s : State) : Bool :=
  (slotRec (sio0Port s) 0 s).autoEjectTicks == 0
    && (cardInput (sio0Port s) 0 s).present && (cardInput (sio0Port s) 0 s).isPSX

/-- SIO0 is between transactions. -/
def sio0Idle (s : State) : Bool := !txGated s && s.blk.sio0.stage == .idle

/-- SIO0 expects the command byte of a transaction of a mode. -/
def sio0Expects (mode : SioMode) (s : State) : Bool :=
  !txGated s && s.blk.sio0.stage == .waitingCommand && s.blk.sio0.sioMode == mode

/-- SIO0 is in the body of a PS1 transaction of a command, at a position of its layout. -/
def ps1At (command : Byte) (position : Nat) (s : State) : Bool :=
  !txGated s && s.blk.sio0.stage == .working && s.blk.sio0.sioMode == .memcard && s.blk.sio0.command == command
    && s.blk.ps1.cursor == position

/-- A slot record after a PS1 address (R242). -/
def addressed (r : SlotRecord) (msb lsb : Byte) : SlotRecord :=
  { r with
    sectorAddr := BitVec.ofNat 32 (256 * msb.toNat + lsb.toNat)
    goodSector := decide (256 * msb.toNat + lsb.toNat ≤ 0x3FF)
    transferAddr := BitVec.ofNat 32 (128 * (256 * msb.toNat + lsb.toNat)) }

/-- The value a PS1 checksum starts from (R243). -/
def seed (s : State) (msb lsb : Byte) : Byte :=
  match s.params.ps1ChecksumSeed with
  | .zero => 0x00
  | .address => msb ^^^ lsb

/-! ### Card memory and transfers -/

/-- Card memory after `bytes` were stored from `addr` on in the card of a slot, as byte reads: each byte at its
address, on 32 bits, and every other byte of every card as before (R47; log 6). -/
def Stored (p : Port) (q : Slot) (addr : Word) (bytes : List Byte) (s t : State) : Prop :=
  ∀ (p' : Port) (q' : Slot) (a : Word),
    Memory.byteAt (cardMem p' q' t) a.toNat =
      if p' = p ∧ q' = q ∧ (a - addr).toNat < bytes.length then bytes[(a - addr).toNat]?
      else Memory.byteAt (cardMem p' q' s) a.toNat

/-- What one save leaves: the bytes stored where the backend admits it, nothing where it does not (R8, R47). -/
def Saved (p : Port) (q : Slot) (addr : Word) (bytes : List Byte) (s t : State) : Prop :=
  if (cardInput p q s).admitsSave then Stored p q addr bytes s t else t.cards = s.cards

/-! ### Interrupt requests and runs -/

/-- The requests a line has been raised with so far (R292). -/
def irqCount (line : IrqLine) (s : State) : Nat := s.events.count (.irq line)

/-- The TX_DATA writes an instruction makes that are not held back by SIO0_TX_ENABLE_GATES. -/
def txWrites (i : Instr) (s : State) : Nat :=
  if txGated s then 0
  else
    match i, encode i with
    | .wr8Sio0TxData _, _ => 1
    | _, .transaction bytes => bytes.length
    | _, _ => 0

/-- A run of instructions, stopping at the first one that does not answer a next state. -/
def runAll : List Instr → State → Result
  | [], s => .next s
  | i :: is, s => andThen (exec i s) (runAll is)

end Sys2Proof.Machine
end

