-- ==== Sys2Proof/Certificates/Slice0/Obligations.lean ====
section
/-! DEFINITION. The statements for the provers. Each says in its docstring which rules it formalises; where a clause
rests on a choice of the model, the docstring names the log entry. -/

section

open Sys2Proof Sys2Proof.Machine

/-! ### Encoding -/

/-- The decoder reads the packet of a well-formed instruction as that instruction, under its row's condition on the
multitap switch (30_encoding.md R61 to R74, R79). -/
def Obligations.DecodeOfEncode : Prop :=
  ∀ i : Instr, i.wf = true → decode i.multitapCondition (encode i) = .ok i

/-- Whatever the decoder accepts is a well-formed instruction with exactly that packet: no two packets are one
instruction, and no bit of a packet is dropped. -/
def Obligations.EncodeOfDecode : Prop :=
  ∀ (multitap : Bool) (p : Packet) (i : Instr), decode multitap p = .ok i → encode i = p ∧ i.wf = true

/-- Packets written out from the spec's tables decode to their instructions. -/
def Obligations.KnownPackets : Prop :=
  decode true (.write 0x1F801040 8 0x81) = .ok (.wr8Sio0TxData 0x81)
    ∧ decode true (.read 0x1F801044 32) = .ok .rd32Sio0Stat
    ∧ decode true (.write 0x1F808224 32 0x00000901) = .ok (.wr32Sio2Send3 9 0x00000901)
    ∧ decode true (.write 0x1F80825C 32 0xFF020505) = .ok (.wr32Sio2Send2 3 0xFF020505)
    ∧ decode true (.pin 0x2 [1, 3] none) = .ok (.pinAeSet 1 3)
    ∧ decode true (.frame [0x81, 0x28, 0x00, 0x00, 0x00]) = .ok (.mcGetTerminator [0x00, 0x00, 0x00])
    ∧ decode true (.frame [0x21, 0x21, 0x02, 0x00]) = .ok (.mtapSelectPad 0x02 [0x00])
    ∧ decode false (.frame [0x21, 0x21, 0x02, 0x00]) = .ok (.s2MtapDisabled [0x21, 0x02, 0x00])
    ∧ decode true (.frame [0x81, 0xF0, 0x0B]) = .ok (.mcAuthXor0B [])
    ∧ decode true (.transaction [0x01, 0x42, 0x00]) = .ok (.s0Pad 0x2 [0x00])
    ∧ decode true (.transaction [0x81, 0x57]) = .ok (.s0Ps1Write [])

/-! ### The step -/

/-- A step runs the instruction that the next packet decodes to, on the state in which the operation has left the
stream and its inputs are on the lines; of a card that was exchanged nothing is known any more (logs 1, 2,
18). -/
def Obligations.StepRunsDecodedInstruction : Prop :=
  ∀ (s : State) (op : HostOp) (rest : List HostOp) (i : Instr),
    s.pending = op :: rest → decode (multitapLine (takeOp op rest s)) op.packet = .ok i →
      step s = exec i (takeOp op rest s)
        ∧ takeOp op rest s =
            { s with pending := rest, inputs := op.inputs, cards := (takeOp op rest s).cards }
        ∧ ∀ p q, cardMem p q (takeOp op rest s) =
            if (entryAt op.inputs.card p q).exchanged then [] else cardMem p q s

/-- With no operation pending a step changes nothing; a packet that is no instruction is refused by name (logs 1,
19). -/
def Obligations.StepWithoutInstruction : Prop :=
  ∀ s : State,
    (s.pending = [] → step s = .next s)
      ∧ ∀ (op : HostOp) (rest : List HostOp) (why : DecodeError),
          s.pending = op :: rest → decode (multitapLine (takeOp op rest s)) op.packet = .error why →
            step s = .refused (.rejected why)

/-- A frame is the DATA_IN writes of its bytes and a transaction the TX_DATA writes of its bytes, one after the other
(30_encoding.md R68, R70, R78; log 9). -/
def Obligations.FramesAndTransactionsAreTheirBytes : Prop :=
  ∀ (i : Instr) (bytes : List Byte) (s : State),
    (encode i = .frame bytes → exec i s = runAll (bytes.map Instr.wr8Sio2DataIn) s)
      ∧ (encode i = .transaction bytes → exec i s = runAll (bytes.map Instr.wr8Sio0TxData) s)

/-! ### Reset and invariants -/

/-- Hard reset gives every element of the block its value of R29, in every state, and touches nothing else; the machine
starts in that state, with no interrupt requested. -/
def Obligations.HardReset : Prop :=
  ∀ s : State, ∃ b : Block,
    exec .pinHardReset s = .next { s with blk := b }
      ∧ State.reset.blk = b
      ∧ irqCount .sio0 State.reset = 0
      ∧ irqCount .sio2 State.reset = 0
      ∧ b.sio0 =
          { stat := 0, ctrl := 0, mode := 0, rxData := 0x00, txData := 0x00, stage := .idle, sioMode := .notSet
            command := 0x00 }
      ∧ b.sio2.ctrl = 0
      ∧ (∀ i : Fin 4, b.sio2.send1[i] = 0 ∧ b.sio2.send2[i] = 0)
      ∧ (∀ i : Fin 16, b.sio2.send3[i] = 0)
      ∧ b.sio2.recv1 = 0x0001D100 ∧ b.sio2.recv2 = 0x0000000F ∧ b.sio2.recv3 = 0x00000000
      ∧ b.sio2.port = 0 ∧ b.sio2.slot = 0 ∧ b.sio2.commandLength = 0 ∧ b.sio2.dmaBlockSize = 0
      ∧ b.sio2.send3Position = 0 ∧ b.sio2.send3Read = false ∧ b.sio2.send3Complete = false
      ∧ b.fifoIn = [] ∧ b.fifoOut = []
      ∧ (∀ p q, entryAt b.mcd p q =
          { term := 0x55, flag := 0x08, sectorAddr := 0, transferAddr := 0, goodSector := false
            autoEjectTicks := 0 })
      ∧ b.ps1.cursor = 2 ∧ b.ps1.addrMSB = 0 ∧ b.ps1.addrLSB = 0 ∧ b.ps1.checksum = 0 ∧ b.ps1.expected = 0
      ∧ ∀ i : Fin 128, b.ps1.buf[i] = 0

/-- The state after reset meets both invariants. -/
def Obligations.ResetMeetsInvariants : Prop := State.wf State.reset = true ∧ State.sound State.reset = true

/-- Every step keeps the invariant of every state: the reserved STAT bits read 0, the command length is at most 511,
every card memory is in canonical form, AUTO_EJECT_TICKS is positive (R11, R17, R40, R272). -/
def Obligations.StepKeepsWellFormed : Prop :=
  ∀ s t : State, State.wf s = true → step s = .next t → State.wf t = true

/-- Every step that loads no checkpoint keeps: the SIO0 stage, mode and command go together, STAT.RX_PARITY_ERROR and
STAT.IRQ read 0, CTRL.ACK and CTRL.RESET read 0, RECV1 is one of its two values, RECV2 and RECV3 are their
constants, the SEND3 cursor is at most 16, the PS1 cursor at least 2 (R11, R12, R14, R16, R18, R24). -/
def Obligations.StepKeepsSound : Prop :=
  ∀ s t : State,
    State.sound s = true → step s = .next t →
      (∀ op rest image, s.pending = op :: rest →
        fetch op.packet (takeOp op rest s) ≠ .ok (.pinCheckpointLoad image)) →
        State.sound t = true

/-- In every state, one that only a checkpoint holds among them (log 14), every TX_DATA write and every transaction is
answered (R285), and the second invariant is kept (R130, R140). -/
def Obligations.TxAlwaysAnswers : Prop :=
  ∀ s : State,
    (∀ b : Byte, ∃ t, exec (.wr8Sio0TxData b) s = .next t ∧ (State.sound s = true → State.sound t = true))
      ∧ ∀ (i : Instr) (bytes : List Byte), encode i = .transaction bytes →
          ∃ t, exec i s = .next t ∧ (State.sound s = true → State.sound t = true)

/-- No instruction faults, and only one refusal exists, a frame too short for its command (R7, R285; log 13). What sends
no byte to DATA_IN always completes: every other register access, every transaction and every control input. -/
def Obligations.OnlyOneRefusal : Prop :=
  ∀ (i : Instr) (s : State),
    ((∃ t, exec i s = .next t) ∨ exec i s = .refused .frameTooShort)
      ∧ ((∀ bytes, encode i ≠ .frame bytes) → (∀ b, i ≠ .wr8Sio2DataIn b) → ∃ t, exec i s = .next t)

/-! ### SIO0 registers -/

/-- The SIO0 registers but for TX_DATA and CTRL's write: RX_DATA and STAT answer the value and clear one bit after it
(R91, R92), CTRL and MODE read back (R95, R97), a STAT write changes nothing (R93), a MODE write stores (R96). -/
def Obligations.Sio0Registers : Prop :=
  ∀ s : State,
    (∃ v : Word,
      exec .rd8Sio0RxData s =
          .next { s with blk.sio0.stat := v, events := s.events ++ [.read8 s.blk.sio0.rxData] }
        ∧ ∀ k, v.getLsbD k = (s.blk.sio0.stat.getLsbD k && k != 1))
      ∧ (∃ v : Word,
        exec .rd32Sio0Stat s =
            .next { s with blk.sio0.stat := v, events := s.events ++ [.read32 s.blk.sio0.stat] }
          ∧ ∀ k, v.getLsbD k = (s.blk.sio0.stat.getLsbD k && k != 7))
      ∧ exec .rd16Sio0Ctrl s = .next { s with events := s.events ++ [.read16 s.blk.sio0.ctrl] }
      ∧ exec .rd16Sio0Mode s = .next { s with events := s.events ++ [.read16 s.blk.sio0.mode] }
      ∧ (∀ v, exec (.wr32Sio0Stat v) s = .next s)
      ∧ ∀ v, exec (.wr16Sio0Mode v) s = .next { s with blk.sio0.mode := v }

/-- A CTRL write (R94): RESET clears the five registers and resets the protocol; a value of 0 resets the protocol; any
other value is stored without its ACK bit, which clears STAT's ACK, RX_PARITY_ERROR and IRQ. -/
def Obligations.Sio0CtrlWrite : Prop :=
  ∀ (v : Half) (s : State),
    exec (.wr16Sio0Ctrl v) s =
      .next
        (if v.getLsbD 6 then
          { s with
            blk.sio0 :=
              { stat := 0, ctrl := 0, mode := 0, rxData := 0, txData := 0, stage := .idle, sioMode := .notSet
                command := 0 }
            blk.ps1 := Ps1.start }
        else if v = 0 then
          { s with
            blk.sio0 := { s.blk.sio0 with ctrl := 0, stage := .idle, sioMode := .notSet, command := 0 }
            blk.ps1 := Ps1.start }
        else
          { s with
            blk.sio0.ctrl := v &&& 0xFFEF
            blk.sio0.stat := if v.getLsbD 4 then s.blk.sio0.stat &&& 0xFFFFFD77 else s.blk.sio0.stat })

/-! ### SIO0 protocol -/

/-- The mode byte in IDLE, other than MEMCARD: PAD starts the pad, acknowledges a reply that is not 0x00 and always
advances (R131); any other byte is dead air (R133). The transaction of an unknown mode is that one write. -/
def Obligations.TxModeByte : Prop :=
  ∀ s : State, sio0Idle s = true →
    (∃ a, PadAnswers s [a] ∧
      exec (.wr8Sio0TxData 0x01) s =
        .next (txDone (padCalled (.padStart (sio0Port s) 0) s) 0x01 a.reply (a.reply != 0x00) .waitingCommand .pad))
      ∧ ∀ m : Byte, m ≠ 0x01 → m ≠ 0x81 →
          exec (.wr8Sio0TxData m) s = .next (txDone s m 0x00 false .idle s.blk.sio0.sioMode)
            ∧ exec (.s0UnknownMode m) s = .next (txDone s m 0x00 false .idle s.blk.sio0.sioMode)

/-- The MEMCARD mode byte in IDLE (R132): an armed slot counts the access and is dead air whatever it holds; a slot
without a PS1-type card is dead air; else the byte is acknowledged and the stage advances. -/
def Obligations.TxMemcardModeByte : Prop :=
  ∀ s : State, sio0Idle s = true →
    exec (.wr8Sio0TxData 0x81) s =
      .next
        (if 0 < (slotRec (sio0Port s) 0 s).autoEjectTicks then
          setSlotRec (sio0Port s) 0
            { slotRec (sio0Port s) 0 s with
              autoEjectTicks := (slotRec (sio0Port s) 0 s).autoEjectTicks - 1 }
            (txDone s 0x81 0x00 false .idle s.blk.sio0.sioMode)
        else if ((cardInput (sio0Port s) 0 s).present && (cardInput (sio0Port s) 0 s).isPSX) = false then
          txDone s 0x81 0x00 false .idle s.blk.sio0.sioMode
        else txDone s 0x81 0x00 true .waitingCommand .memcard)

/-- A byte of a pad transaction: a pad command is forwarded and acknowledged while the pad has more to exchange (R134);
another byte is 0xFF and a soft reset (R135); in the body every byte is forwarded (R139). -/
def Obligations.TxPadByte : Prop :=
  ∀ (b : Byte) (s : State),
    (sio0Expects .pad s = true → 0x40 ≤ b.toNat ∧ b.toNat ≤ 0x4F →
        ∃ a, PadAnswers s [a] ∧
          exec (.wr8Sio0TxData b) s = .next (txDone (padCalled (.padPoll b) s) b a.reply (!a.complete) .working .pad))
      ∧ (sio0Expects .pad s = true → ¬(0x40 ≤ b.toNat ∧ b.toNat ≤ 0x4F) →
          exec (.wr8Sio0TxData b) s =
            .next
              { txDone s b 0xFF false .idle .notSet with
                blk.sio0.command := 0x00
                blk.ps1 := Ps1.start })
      ∧ (txGated s = false → s.blk.sio0.stage = .working → s.blk.sio0.sioMode = .pad →
          ∃ a, PadAnswers s [a] ∧
            exec (.wr8Sio0TxData b) s =
              .next (txDone (padCalled (.padPoll b) s) b a.reply (!a.complete) .working .pad))

/-- The command byte of a memory-card transaction: Read, State and Write are latched, answered with FLAG and
acknowledged, and the PS1 record starts afresh (R136); the Pocketstation probe is dead air and returns to IDLE (R137);
another byte is 0xFF and a soft reset (R138). -/
def Obligations.TxMemcardCommand : Prop :=
  ∀ (b : Byte) (s : State), sio0Expects .memcard s = true →
    exec (.wr8Sio0TxData b) s =
      .next
        (if b = 0x52 ∨ b = 0x53 ∨ b = 0x57 then
          { txDone s b (slotRec (sio0Port s) 0 s).flag true .working .memcard with
            blk.sio0.command := b
            blk.ps1 := Ps1.start }
        else if b = 0x58 then txDone s b 0x00 false .idle .notSet
        else
          { txDone s b 0xFF false .idle .notSet with
            blk.sio0.command := 0x00
            blk.ps1 := Ps1.start })

/-- A byte in the states the table of R130 leaves out, which only a checkpoint image holds (R277): the model's reading
of R285 (log 14). WAITING_COMMAND without a mode recognises no command: 0xFF and a soft reset. WORKING without a
handler to forward to answers a dead byte, 0x00 or 0xFF, and stays. Neither acknowledges. -/
def Obligations.TxDesync : Prop :=
  ∀ (b : Byte) (s : State), txGated s = false →
    (s.blk.sio0.stage = .waitingCommand → s.blk.sio0.sioMode = .notSet →
      exec (.wr8Sio0TxData b) s =
        .next
          { txDone s b 0xFF false .idle .notSet with
            blk.sio0.command := 0x00
            blk.ps1 := Ps1.start })
      ∧ (s.blk.sio0.stage = .working →
          s.blk.sio0.sioMode = .notSet ∨
            s.blk.sio0.sioMode = .memcard ∧ s.blk.sio0.command ∉ ([0x52, 0x53, 0x57] : List Byte) →
          ∃ reply : Byte, (reply = 0x00 ∨ reply = 0xFF)
            ∧ exec (.wr8Sio0TxData b) s =
                .next
                  { txDone s b reply false .working s.blk.sio0.sioMode with
                    freeCount := s.freeCount + 1 })

/-! ### The PS1 layout -/

/-- One byte of a PS1 Read, at every position (R244): handshakes, the address and its recompute (R242) with the
checksum's seed (R243), the echo, the sector's fetch at position 10 and its bytes (R247), the checksum, the trailer
that is not acknowledged. Past the layout the reply is any byte and the cursor alone moves (R264; log 3). -/
def Obligations.TxPs1Read : Prop :=
  ∀ (b : Byte) (s : State) (pos : Nat), ps1At 0x52 pos s = true →
    let r := s.blk.ps1
    let next := { r with cursor := pos + 1 }
    let p := sio0Port s
    let addr := (slotRec p 0 s).transferAddr
    (pos = 2 → exec (.wr8Sio0TxData b) s = .next (ps1Done s b 0x5A true next))
      ∧ (pos = 3 → exec (.wr8Sio0TxData b) s = .next (ps1Done s b 0x5D true next))
      ∧ (pos = 4 → exec (.wr8Sio0TxData b) s = .next (ps1Done s b 0x00 true { next with addrMSB := b }))
      ∧ (pos = 5 →
          exec (.wr8Sio0TxData b) s =
            .next
              (setSlotRec p 0 (addressed (slotRec p 0 s) r.addrMSB b)
                (ps1Done s b 0x00 true { next with addrLSB := b, checksum := seed s r.addrMSB b })))
      ∧ (pos = 6 → exec (.wr8Sio0TxData b) s = .next (ps1Done s b 0x5C true next))
      ∧ (pos = 7 → exec (.wr8Sio0TxData b) s = .next (ps1Done s b 0x5D true next))
      ∧ (pos = 8 → exec (.wr8Sio0TxData b) s = .next (ps1Done s b r.addrMSB true next))
      ∧ (pos = 9 → exec (.wr8Sio0TxData b) s = .next (ps1Done s b r.addrLSB true next))
      ∧ (pos = 10 →
          ∃ buf : Vector Byte 128, buf.toList = cardReadBytes p 0 addr 128 s ∧
            exec (.wr8Sio0TxData b) s =
              .next
                (ps1Done
                  { s with
                    events := s.events ++ [.cardRead p 0 addr 128]
                    freeCount := s.freeCount + 1 }
                  b buf[0] true { next with buf := buf, checksum := r.checksum ^^^ buf[0] }))
      ∧ (∀ i : Fin 128, 0 < i.val → pos = 10 + i.val →
          exec (.wr8Sio0TxData b) s =
            .next (ps1Done s b r.buf[i] true { next with checksum := r.checksum ^^^ r.buf[i] }))
      ∧ (pos = 138 → exec (.wr8Sio0TxData b) s = .next (ps1Done s b r.checksum true next))
      ∧ (pos = 139 → exec (.wr8Sio0TxData b) s = .next (ps1Done s b 0x47 false next))
      ∧ (139 < pos →
          ∃ reply : Byte, exec (.wr8Sio0TxData b) s =
            .next { ps1Done s b reply false next with freeCount := s.freeCount + 1 })

/-- One byte of a PS1 Write, at every position but the last of its layout (R252): handshakes, the address and its
recompute (R242), the 128 data bytes buffered, the host's checksum. Past the layout the reply is any byte and the
cursor alone moves (R264; log 3). -/
def Obligations.TxPs1Write : Prop :=
  ∀ (b : Byte) (s : State) (pos : Nat), ps1At 0x57 pos s = true →
    let r := s.blk.ps1
    let next := { r with cursor := pos + 1 }
    let p := sio0Port s
    (pos = 2 → exec (.wr8Sio0TxData b) s = .next (ps1Done s b 0x5A true next))
      ∧ (pos = 3 → exec (.wr8Sio0TxData b) s = .next (ps1Done s b 0x5D true next))
      ∧ (pos = 4 → exec (.wr8Sio0TxData b) s = .next (ps1Done s b 0x00 true { next with addrMSB := b }))
      ∧ (pos = 5 →
          exec (.wr8Sio0TxData b) s =
            .next
              (setSlotRec p 0 (addressed (slotRec p 0 s) r.addrMSB b)
                (ps1Done s b 0x00 true { next with addrLSB := b, checksum := seed s r.addrMSB b })))
      ∧ (∀ i : Fin 128, pos = 6 + i.val →
          exec (.wr8Sio0TxData b) s =
            .next (ps1Done s b 0x00 true { next with buf := r.buf.set i b, checksum := r.checksum ^^^ b }))
      ∧ (pos = 134 → exec (.wr8Sio0TxData b) s = .next (ps1Done s b 0x00 true { next with expected := b }))
      ∧ (pos = 135 → exec (.wr8Sio0TxData b) s = .next (ps1Done s b 0x5C true next))
      ∧ (pos = 136 → exec (.wr8Sio0TxData b) s = .next (ps1Done s b 0x5D true next))
      ∧ (137 < pos →
          ∃ reply : Byte, exec (.wr8Sio0TxData b) s =
            .next { ps1Done s b reply false next with freeCount := s.freeCount + 1 })

/-- The last byte of a PS1 Write (R258), never acknowledged: a checksum mismatch is 0x4E and saves nothing; then a bad
sector is 0xFF and saves nothing; else the 128 bytes are saved at transferAddr by one call, FLAG's directory-unread
bit is cleared and the status is 0x47. Every byte of every card outside the stored ones reads as before; that a
transfer past 2^32 goes on at 0 is the model's reading (log 6). -/
def Obligations.TxPs1WriteCommit : Prop :=
  ∀ (b : Byte) (s : State), State.wf s = true → ps1At 0x57 137 s = true →
    let r := s.blk.ps1
    let next := { r with cursor := 138 }
    let p := sio0Port s
    let m := slotRec p 0 s
    (r.expected ≠ r.checksum → exec (.wr8Sio0TxData b) s = .next (ps1Done s b 0x4E false next))
      ∧ (r.expected = r.checksum → m.goodSector = false →
          exec (.wr8Sio0TxData b) s = .next (ps1Done s b 0xFF false next))
      ∧ (r.expected = r.checksum → m.goodSector = true →
          ∃ t, exec (.wr8Sio0TxData b) s = .next t
            ∧ Saved p 0 m.transferAddr r.buf.toList s t
            ∧ t =
                { setSlotRec p 0 { m with flag := m.flag &&& 0xF7 }
                    (ps1Done
                      { s with events := s.events ++ [.cardSave p 0 m.transferAddr r.buf.toList] }
                      b 0x47 false next) with
                  cards := t.cards })

/-- A byte of the PS1 State command is answered 0x00 and not acknowledged, at any position (R260); the transaction of
the command, on a slot that answers: FLAG is answered to the command byte and 0x00 to the rest. -/
def Obligations.Ps1StateCommand : Prop :=
  (∀ (b : Byte) (s : State) (pos : Nat), ps1At 0x53 pos s = true →
    exec (.wr8Sio0TxData b) s = .next (ps1Done s b 0x00 false { s.blk.ps1 with cursor := pos + 1 }))
    ∧ ∀ (rest : List Byte) (s : State), sio0Idle s = true → ps1Answers s = true →
        exec (.s0Ps1State rest) s =
          .next
            { s with
              blk.sio0 :=
                { s.blk.sio0 with
                  stat := s.blk.sio0.stat ||| 0x00000087
                  txData := rest.getLastD 0x53
                  rxData := if rest = [] then (slotRec (sio0Port s) 0 s).flag else 0x00
                  stage := .working
                  sioMode := .memcard
                  command := 0x53 }
              blk.ps1 := { Ps1.start with cursor := 2 + rest.length }
              events := s.events ++ List.replicate (2 + rest.length) (.irq .sio0) }

/-- The transactions that end with their command byte: an unknown pad command (R135), the Pocketstation probe (R137)
and an unknown memory-card command (R138), the last two on a slot that answers. -/
def Obligations.ShortTransactions : Prop :=
  ∀ s : State, sio0Idle s = true →
    (∀ c : Byte, ¬(0x40 ≤ c.toNat ∧ c.toNat ≤ 0x4F) →
      ∃ a, PadAnswers s [a] ∧
        exec (.s0PadUnknown c) s =
          .next
            { txDone
                (txDone (padCalled (.padStart (sio0Port s) 0) s) 0x01 a.reply (a.reply != 0x00) .waitingCommand .pad)
                c 0xFF false .idle .notSet with
              blk.sio0.command := 0x00
              blk.ps1 := Ps1.start })
      ∧ (ps1Answers s = true →
          exec .s0Ps1Pocketstation s =
            .next (txDone (txDone s 0x81 0x00 true .waitingCommand .memcard) 0x58 0x00 false .idle .notSet))
      ∧ ∀ c : Byte, ps1Answers s = true → c ∉ ([0x52, 0x53, 0x57, 0x58] : List Byte) →
          exec (.s0MemcardUnknown c) s =
            .next
              { txDone (txDone s 0x81 0x00 true .waitingCommand .memcard) c 0xFF false .idle .notSet with
                blk.sio0.command := 0x00
                blk.ps1 := Ps1.start }

/-- A pad transaction of any length (R131, R134, R139): one startPoll and one poll for each further byte, the last
reply in RX_DATA, ACK set if the first reply was not 0x00 or a later answer was not the pad's last. -/
def Obligations.PadTransaction : Prop :=
  ∀ (c : BitVec 4) (rest : List Byte) (s : State), sio0Idle s = true →
    ∃ (a : PadAnswer) (answers : List PadAnswer),
      answers.length = 1 + rest.length
        ∧ PadAnswers s (a :: answers)
        ∧ exec (.s0Pad c rest) s =
            .next
              { padCalledAll
                  (.padStart (sio0Port s) 0 :: (padCommandByte c :: rest).map Event.padPoll) s with
                blk.sio0 :=
                  { s.blk.sio0 with
                    stat :=
                      s.blk.sio0.stat ||| 0x00000007
                        ||| (if a.reply != 0x00 || answers.any (fun x => !x.complete) then 0x00000080 else 0)
                    txData := rest.getLastD (padCommandByte c)
                    rxData := ((answers.map PadAnswer.reply).getLast?).getD 0x00
                    stage := .working
                    sioMode := .pad }
                events :=
                  s.events ++ [.padStart (sio0Port s) 0, .irq .sio0]
                    ++ (padCommandByte c :: rest).flatMap (fun b => [.padPoll b, .irq .sio0]) }

/-- A PS1 Read transaction on a slot that answers, of any length: it leaves SIO2, the queues, the cards and every other
slot alone, the addressed slot's record follows the address, the cursor and the interrupts count the bytes; at its
full length of 140 bytes the last reply is 0x47, the sector buffer holds the 128 bytes at 128 times the sector
address, fetched by one call, and the checksum is their exclusive or on the seed (R136, R242 to R247). -/
def Obligations.Ps1ReadTransaction : Prop :=
  ∀ (rest : List Byte) (s : State), sio0Idle s = true → ps1Answers s = true →
    let p := sio0Port s
    let msb := rest.getD 2 0
    let lsb := rest.getD 3 0
    let addr : Word := BitVec.ofNat 32 (128 * (256 * msb.toNat + lsb.toNat))
    let bytes := cardReadBytes p 0 addr 128 s
    ∃ t, exec (.s0Ps1Read rest) s = .next t
      ∧ t =
          { s with
            blk.sio0 := t.blk.sio0
            blk.ps1 := t.blk.ps1
            blk.mcd := t.blk.mcd
            events := t.events
            freeCount := t.freeCount }
      ∧ t.blk.sio0.stage = .working ∧ t.blk.sio0.sioMode = .memcard ∧ t.blk.sio0.command = 0x52
      ∧ t.blk.ps1.cursor = 2 + rest.length
      ∧ irqCount .sio0 t = irqCount .sio0 s + 2 + rest.length
      ∧ (∀ p' q', slotRec p' q' t =
          if p' = p ∧ q' = 0 ∧ 4 ≤ rest.length then addressed (slotRec p' q' s) msb lsb else slotRec p' q' s)
      ∧ (rest.length = 138 →
          t.blk.sio0.rxData = 0x47
            ∧ t.blk.ps1.buf.toList = bytes
            ∧ t.blk.ps1.checksum = seed s msb lsb ^^^ xorOf bytes
            ∧ t.events.count (.cardRead p 0 addr 128) = s.events.count (.cardRead p 0 addr 128) + 1)

/-- A PS1 Write transaction on a slot that answers, of any length: nothing reaches a card before its 138th byte; then
the status is 0x4E where the host's checksum differs, else 0xFF for a sector above 0x3FF, else 0x47, and only with
0x47 the 128 bytes are saved at 128 times the sector address and FLAG's bit 3 is cleared (R136, R252, R258). -/
def Obligations.Ps1WriteTransaction : Prop :=
  ∀ (rest : List Byte) (s : State), State.wf s = true → sio0Idle s = true → ps1Answers s = true →
    let p := sio0Port s
    let msb := rest.getD 2 0
    let lsb := rest.getD 3 0
    let sector := 256 * msb.toNat + lsb.toNat
    let data := (rest.drop 4).take 128
    let status : Byte :=
      if rest.getD 132 0 ≠ seed s msb lsb ^^^ xorOf data then 0x4E else if 0x3FF < sector then 0xFF else 0x47
    let saved := 136 ≤ rest.length ∧ status = 0x47
    ∃ t, exec (.s0Ps1Write rest) s = .next t
      ∧ t =
          { s with
            blk.sio0 := t.blk.sio0
            blk.ps1 := t.blk.ps1
            blk.mcd := t.blk.mcd
            cards := t.cards
            events := t.events
            freeCount := t.freeCount }
      ∧ t.blk.sio0.stage = .working ∧ t.blk.sio0.sioMode = .memcard ∧ t.blk.sio0.command = 0x57
      ∧ t.blk.ps1.cursor = 2 + rest.length
      ∧ irqCount .sio0 t = irqCount .sio0 s + 2 + rest.length
      ∧ (rest.length = 136 → t.blk.sio0.rxData = status)
      ∧ (saved → Saved p 0 (BitVec.ofNat 32 (128 * sector)) data s t)
      ∧ (¬saved → t.cards = s.cards)
      ∧ (∀ p' q', ¬(p' = p ∧ q' = 0) → slotRec p' q' t = slotRec p' q' s)
      ∧ (rest.length < 4 → slotRec p 0 t = slotRec p 0 s)
      ∧ (4 ≤ rest.length → ¬saved → slotRec p 0 t = addressed (slotRec p 0 s) msb lsb)
      ∧ (saved →
          slotRec p 0 t =
            { addressed (slotRec p 0 s) msb lsb with flag := (slotRec p 0 s).flag &&& 0xF7 })

/-! ### SIO2 registers and control inputs -/

/-- A SEND3 write stores the entry (R100); the write of entry 0 also soft-resets the sequencer: cursor, flags, lengths
and fifoIn are cleared, fifoOut by the parameter, everything else survives (R312). -/
def Obligations.Send3Write : Prop :=
  ∀ (i : Fin 16) (w : Word) (s : State), ∃ t,
    exec (.wr32Sio2Send3 i w) s = .next t
      ∧ (∀ j : Fin 16, t.blk.sio2.send3[j] = if j = i then w else s.blk.sio2.send3[j])
      ∧ t =
          if i = 0 then
            { s with
              blk.sio2 :=
                { s.blk.sio2 with
                  send3 := t.blk.sio2.send3
                  send3Read := false
                  send3Position := 0
                  send3Complete := false
                  commandLength := 0
                  dmaBlockSize := 0 }
              blk.fifoIn := []
              blk.fifoOut := if s.params.softresetClearsFifoOut then [] else s.blk.fifoOut }
          else { s with blk.sio2.send3 := t.blk.sio2.send3 }

/-- The SEND tables read back what is stored, without an effect (R101, R103); a SEND1 or SEND2 write stores its entry
and changes nothing else (R102). -/
def Obligations.SendTables : Prop :=
  ∀ s : State,
    (∀ i : Fin 16, exec (.rd32Sio2Send3 i) s = .next { s with events := s.events ++ [.read32 s.blk.sio2.send3[i]] })
      ∧ ∀ (i : Fin 4) (w : Word),
          exec (.rd32Sio2Send1 i) s = .next { s with events := s.events ++ [.read32 s.blk.sio2.send1[i]] }
            ∧ exec (.rd32Sio2Send2 i) s = .next { s with events := s.events ++ [.read32 s.blk.sio2.send2[i]] }
            ∧ (∃ v : Vector Word 4, exec (.wr32Sio2Send1 i w) s = .next { s with blk.sio2.send1 := v } ∧
                ∀ j : Fin 4, v[j] = if j = i then w else s.blk.sio2.send1[j])
            ∧ ∃ v : Vector Word 4, exec (.wr32Sio2Send2 i w) s = .next { s with blk.sio2.send2 := v } ∧
                ∀ j : Fin 4, v[j] = if j = i then w else s.blk.sio2.send2[j]

/-- A DATA_OUT read takes the head of fifoOut; of the empty queue it answers 0x00 and changes nothing (R105). -/
def Obligations.DataOut : Prop :=
  ∀ s : State,
    exec .rd8Sio2DataOut s =
      .next
        { s with
          blk.fifoOut := s.blk.fifoOut.drop 1
          events := s.events ++ [.read8 (s.blk.fifoOut.headD 0x00)] }

/-- The other SIO2 registers: CTRL stores and requests the interrupt, always or by its bit 0 (R106), and reads back
(R107); RECV1 to RECV3 read what is stored (R108) and ignore writes (R109); the DMA block size is set (R110). -/
def Obligations.Sio2Registers : Prop :=
  ∀ (v : Word) (n : Nat) (s : State),
    exec (.wr32Sio2Ctrl v) s =
        .next
          { s with
            blk.sio2.ctrl := v
            events :=
              s.events ++
                if s.params.sio2IrqNeedsStart = true ∧ v.getLsbD 0 = false then [] else [.irq .sio2] }
      ∧ exec .rd32Sio2Ctrl s = .next { s with events := s.events ++ [.read32 s.blk.sio2.ctrl] }
      ∧ exec .rd32Sio2Recv1 s = .next { s with events := s.events ++ [.read32 s.blk.sio2.recv1] }
      ∧ exec .rd32Sio2Recv2 s = .next { s with events := s.events ++ [.read32 s.blk.sio2.recv2] }
      ∧ exec .rd32Sio2Recv3 s = .next { s with events := s.events ++ [.read32 s.blk.sio2.recv3] }
      ∧ exec (.wr32Sio2Recv1 v) s = .next s
      ∧ exec (.wr32Sio2Recv2 v) s = .next s
      ∧ exec (.wr32Sio2Recv3 v) s = .next s
      ∧ exec (.pinDmaSetBlock n) s = .next { s with blk.sio2.dmaBlockSize := n }

/-- A DATA_IN write that completes no frame (R160 to R163): after the end of the cycle it changes nothing; the first one
of a command decodes the entry and clears fifoIn, an entry of length 0 and the end of the table end the cycle and
drop the byte; else the byte is accumulated until the count is met. That a write decodes first where the cycle is at
its end and the entry is yet to be decoded, which only a checkpoint image holds, is the model's choice (log 26). -/
def Obligations.DataInFraming : Prop :=
  ∀ (b : Byte) (s : State),
    let r := s.blk.sio2
    (r.send3Read = true → r.send3Complete = true → exec (.wr8Sio2DataIn b) s = .next s)
      ∧ (r.send3Read = false → 16 ≤ r.send3Position →
          exec (.wr8Sio2DataIn b) s =
            .next { s with blk.sio2.send3Read := true, blk.sio2.send3Complete := true, blk.fifoIn := [] })
      ∧ (∀ i : Fin 16, r.send3Read = false → r.send3Complete = false → r.send3Position = i.val →
          let port : Port := if r.send3[i].getLsbD 0 then 1 else 0
          let length := r.send3[i].toNat / 256 % 512
          let decoded := { r with port := port, commandLength := length, send3Read := true }
          (length = 0 →
            exec (.wr8Sio2DataIn b) s =
              .next { s with blk.sio2 := { decoded with send3Complete := true }, blk.fifoIn := [] })
            ∧ (length ≠ 0 → (if r.dmaBlockSize = 0 then length else r.dmaBlockSize) ≠ 1 →
                exec (.wr8Sio2DataIn b) s = .next { s with blk.sio2 := decoded, blk.fifoIn := [b] }))
      ∧ (∀ i : Fin 16, r.send3Read = false → r.send3Complete = true → r.send3Position = i.val →
          exec (.wr8Sio2DataIn b) s =
            .next
              { s with
                blk.sio2 :=
                  { r with
                    port := if r.send3[i].getLsbD 0 then 1 else 0
                    commandLength := r.send3[i].toNat / 256 % 512
                    send3Read := true }
                blk.fifoIn := [] })
      ∧ (r.send3Read = true → r.send3Complete = false →
          s.blk.fifoIn.length + 1 ≠ (if r.dmaBlockSize = 0 then r.commandLength else r.dmaBlockSize) →
          exec (.wr8Sio2DataIn b) s = .next { s with blk.fifoIn := s.blk.fifoIn ++ [b] })

/-- The auto-eject inputs write the counters they name, to the full count or to 0, armed or not, and nothing else (R273
to R276). -/
def Obligations.AutoEjectInputs : Prop :=
  ∀ (p : Port) (q : Slot) (s : State),
    let written (only : Bool) (n : Nat) (t : State) : Prop :=
      t = { s with blk.mcd := t.blk.mcd }
        ∧ ∀ p' q', slotRec p' q' t =
            if only = true ∧ ¬(p' = p ∧ q' = q) then slotRec p' q' s
            else { slotRec p' q' s with autoEjectTicks := n }
    (∃ t, exec (.pinAeSet p q) s = .next t ∧ written true s.params.autoEjectTicks t)
      ∧ (∃ t, exec (.pinAeClear p q) s = .next t ∧ written true 0 t)
      ∧ (∃ t, exec .pinAeSetall s = .next t ∧ written false s.params.autoEjectTicks t)
      ∧ ∃ t, exec .pinAeClearall s = .next t ∧ written false 0 t

/-- A checkpoint load replaces the whole block by the image's and touches nothing else; one card whose CRC differs from
the recorded one arms all eight slots, else the counters are the image's (R277). -/
def Obligations.CheckpointLoad : Prop :=
  ∀ (image : Image) (s : State), ∃ t,
    exec (.pinCheckpointLoad image) s = .next t
      ∧ t = { s with blk := { image.state with mcd := t.blk.mcd } }
      ∧ ((∃ p q, (cardInput p q s).crc ≠ entryAt image.crc p q) →
          ∀ p q, slotRec p q t =
            { entryAt image.state.mcd p q with autoEjectTicks := s.params.autoEjectTicks })
      ∧ ((∀ p q, (cardInput p q s).crc = entryAt image.crc p q) → t.blk.mcd = image.state.mcd)

/-! ### Rules of the whole machine -/

/-- After AE_SET of the port's slot 0 exactly the next AUTO_EJECT_TICKS accesses on SIO0 are dead air, without touching
the storage, and the one after them is accepted (R270 to R273). -/
def Obligations.AutoEjectCountsItsAccesses : Prop :=
  ∀ s : State, sio0Idle s = true →
    ((cardInput (sio0Port s) 0 s).present && (cardInput (sio0Port s) 0 s).isPSX) = true →
    ∃ u v w,
      exec (.pinAeSet (sio0Port s) 0) s = .next u
        ∧ runAll (List.replicate s.params.autoEjectTicks (.wr8Sio0TxData 0x81)) u = .next v
        ∧ exec (.wr8Sio0TxData 0x81) v = .next w
        ∧ (∀ n, n < s.params.autoEjectTicks →
            ∃ v', runAll (List.replicate (n + 1) (.wr8Sio0TxData 0x81)) u = .next v'
              ∧ v'.blk.sio0.rxData = 0x00
              ∧ v'.blk.sio0.stage = .idle
              ∧ v'.blk.sio0.stat.getLsbD 7 = s.blk.sio0.stat.getLsbD 7
              ∧ (slotRec (sio0Port s) 0 v').autoEjectTicks = s.params.autoEjectTicks - (n + 1))
        ∧ v.events = s.events ++ List.replicate s.params.autoEjectTicks (.irq .sio0)
        ∧ v.cards = s.cards
        ∧ w.blk.sio0.stage = .waitingCommand
        ∧ w.blk.sio0.stat.getLsbD 7 = true

/-- IRQ(SIO0) is requested once by each TX_DATA write and by nothing else (R290); IRQ(SIO2) once by each CTRL write that
requests it and by nothing else (R291). -/
def Obligations.InterruptRequests : Prop :=
  ∀ (i : Instr) (s t : State), exec i s = .next t →
    irqCount .sio0 t = irqCount .sio0 s + txWrites i s
      ∧ ((∀ v, i ≠ .wr32Sio2Ctrl v) → irqCount .sio2 t = irqCount .sio2 s)
      ∧ ∀ v, i = .wr32Sio2Ctrl v →
          irqCount .sio2 t =
            irqCount .sio2 s + if s.params.sio2IrqNeedsStart = true ∧ v.getLsbD 0 = false then 0 else 1

/-- No instruction writes a parameter, the stream, the geometry, presence, type or CRC of a card, or a multitap switch
(R28); RECV2 and RECV3 change by hard reset and checkpoint load alone (R16); card memory changes by writes of TX_DATA
and DATA_IN alone (R42). -/
def Obligations.EnvironmentUnchanged : Prop :=
  ∀ (i : Instr) (s t : State), exec i s = .next t →
    t.params = s.params ∧ t.pending = s.pending ∧ t.inputs.card = s.inputs.card
      ∧ t.inputs.multitapEnabled = s.inputs.multitapEnabled
      ∧ (i ≠ .pinHardReset → (∀ image, i ≠ .pinCheckpointLoad image) →
          t.blk.sio2.recv2 = s.blk.sio2.recv2 ∧ t.blk.sio2.recv3 = s.blk.sio2.recv3)
      ∧ ((∀ bytes, encode i ≠ .frame bytes) → (∀ bytes, encode i ≠ .transaction bytes) →
          (∀ b, i ≠ .wr8Sio0TxData b) → (∀ b, i ≠ .wr8Sio2DataIn b) → t.cards = s.cards)

/-- SIO2.slot changes by hard reset, by a checkpoint load and by multitap frames alone (R17, R197). -/
def Obligations.SlotChangesByMultitapAlone : Prop :=
  (∀ (i : Instr) (s t : State), exec i s = .next t → (∀ bytes, encode i ≠ .frame bytes) →
    (∀ b, i ≠ .wr8Sio2DataIn b) → i ≠ .pinHardReset → (∀ image, i ≠ .pinCheckpointLoad image) →
      t.blk.sio2.slot = s.blk.sio2.slot)
    ∧ ∀ (i : Instr) (m : Byte) (rest : List Byte) (s t : State), encode i = .frame (m :: rest) → m ≠ 0x21 →
        frameReady (rest.length + 1) s = true → exec i s = .next t → t.blk.sio2.slot = s.blk.sio2.slot

/-- The two controllers share slot records, the PS1 record and STAT.ACK alone: a TX_DATA write touches no SIO2 register
and no queue (R130); a DATA_IN write touches no SIO0 register but STAT, where it can set ACK (R241). -/
def Obligations.PathsAreSeparate : Prop :=
  ∀ (i : Instr) (s t : State), exec i s = .next t →
    ((∃ b, i = .wr8Sio0TxData b) ∨ (∃ bytes, encode i = .transaction bytes) →
      t.blk.sio2 = s.blk.sio2 ∧ t.blk.fifoIn = s.blk.fifoIn ∧ t.blk.fifoOut = s.blk.fifoOut)
      ∧ ((∃ b, i = .wr8Sio2DataIn b) ∨ (∃ bytes, encode i = .frame bytes) →
          t.blk.sio0 = { s.blk.sio0 with stat := t.blk.sio0.stat }
            ∧ (t.blk.sio0.stat = s.blk.sio0.stat ∨ t.blk.sio0.stat = s.blk.sio0.stat ||| 0x00000080))

/-- Every whole frame that is answered moves the cursor on by exactly one, ends the entry's decoding (R165), leaves the
entry's port and length in force (R162), and under DMA leaves fifoOut a multiple of the block (R170). -/
def Obligations.FrameEnds : Prop :=
  ∀ (i : Instr) (bytes : List Byte) (s t : State), encode i = .frame bytes → frameReady bytes.length s = true →
    exec i s = .next t →
      t.blk.sio2.send3Position = s.blk.sio2.send3Position + 1
        ∧ t.blk.sio2.send3Read = false
        ∧ t.blk.sio2.send3Complete = false
        ∧ t.blk.sio2.port = nextPort s
        ∧ t.blk.sio2.commandLength = nextLength s
        ∧ t.blk.sio2.dmaBlockSize = s.blk.sio2.dmaBlockSize
        ∧ (0 < s.blk.sio2.dmaBlockSize → t.blk.fifoOut.length % s.blk.sio2.dmaBlockSize = 0)

/-! ### Frames: pad, infrared, multitap -/

/-- A pad frame (R166): one startPoll for the mode byte and one poll for each further byte, every reply queued in order,
RECV1 CONNECTED whatever the pad is; nothing else changes. -/
def Obligations.PadFrame : Prop :=
  ∀ (rest : List Byte) (s : State), frameReady (rest.length + 1) s = true →
    ∃ answers : List PadAnswer,
      answers.length = rest.length + 1
        ∧ PadAnswers s answers
        ∧ exec (.s2Pad rest) s =
            .next
              (padCalledAll (.padStart (nextPort s) s.blk.sio2.slot :: rest.map Event.padPoll)
                (frameDone s 0x00001100 (answers.map PadAnswer.reply) []))

/-- Frames that find no device: infrared answers 0xFF up to the command length (R168); an unknown mode answers one 0x00
(R169); both disconnected. -/
def Obligations.NoDeviceFrames : Prop :=
  ∀ (x : Byte) (rest : List Byte) (s : State),
    (frameReady (rest.length + 2) s = true →
      exec (.s2Infrared x rest) s =
        .next (frameDone s 0x0001D100 (List.replicate (nextLength s - alreadyCounted s) 0xFF) rest))
      ∧ (frameReady (rest.length + 1) s = true → x ∉ ([0x01, 0x21, 0x61, 0x81] : List Byte) →
          exec (.s2UnknownMode x rest) s = .next (frameDone s 0x0001D100 [0x00] rest))

/-- A multitap frame on a port whose multitap is disabled: the framing 0x00, zeros up to the command length,
disconnected, the command byte not looked at (R190); an unknown command on an enabled port: the framing 0x00 alone,
connected (R196). -/
def Obligations.MultitapSilence : Prop :=
  ∀ (rest : List Byte) (s : State),
    (frameReady (rest.length + 1) s = true → multitapEnabled (nextPort s) s = false →
      exec (.s2MtapDisabled rest) s =
        .next (frameDone s 0x0001D100 (0x00 :: List.replicate (nextLength s - 1 - alreadyCounted s) 0x00) rest))
      ∧ ∀ c : Byte, frameReady (rest.length + 2) s = true → multitapEnabled (nextPort s) s = true →
          c ∉ ([0x12, 0x13, 0x21, 0x22] : List Byte) →
          exec (.mtapUnknown c rest) s = .next (frameDone s 0x00001100 [0x00] rest)

/-- The two support checks on an enabled port answer the fixed acknowledgment (R193). -/
def Obligations.MultitapSupportCheck : Prop :=
  ∀ (rest : List Byte) (s : State), frameReady (rest.length + 2) s = true →
    multitapEnabled (nextPort s) s = true →
      exec (.mtapPadSupportCheck rest) s =
          .next (frameDone s 0x00001100 [0x00, 0x5A, 0x04, 0x00, 0x5A] rest)
        ∧ exec (.mtapMemcardSupportCheck rest) s =
            .next (frameDone s 0x00001100 [0x00, 0x5A, 0x04, 0x00, 0x5A] rest)

/-- The two selects on an enabled port: an index below 4 becomes SIO2.slot and is echoed; any other leaves the slot and
is answered with the failure bytes (R194). -/
def Obligations.MultitapSelect : Prop :=
  ∀ (index : Byte) (rest : List Byte) (s : State), frameReady (rest.length + 3) s = true →
    multitapEnabled (nextPort s) s = true →
      (∀ h : index.toNat < 4,
        let t :=
          { frameDone s 0x00001100 [0x00, 0x5A, 0x00, 0x00, index, 0x5A] rest with
            blk.sio2.slot := ⟨index.toNat, h⟩ }
        exec (.mtapSelectPad index rest) s = .next t ∧ exec (.mtapSelectMemcard index rest) s = .next t)
        ∧ (4 ≤ index.toNat →
            let t := frameDone s 0x00001100 [0x00, 0x5A, 0x00, 0x00, 0xFF, 0x66] rest
            exec (.mtapSelectPad index rest) s = .next t ∧ exec (.mtapSelectMemcard index rest) s = .next t)

/-! ### Frames: memory card -/

/-- Every memory-card frame to an armed slot counts one access and is answered with as many zeros as it has bytes,
disconnected, card present or not; so is one to an empty slot, which counts nothing (R200, R202, R271). -/
def Obligations.MemcardDeadAir : Prop :=
  ∀ (i : Instr) (rest : List Byte) (s : State), encode i = .frame (0x81 :: rest) →
    frameReady (rest.length + 1) s = true →
      (0 < (nextSlot s).autoEjectTicks →
        exec i s =
          .next
            (setSlotRec (nextPort s) s.blk.sio2.slot
              { nextSlot s with autoEjectTicks := (nextSlot s).autoEjectTicks - 1 }
              (frameDone s 0x0001D100 (List.replicate (rest.length + 1) 0x00) [])))
        ∧ ((nextSlot s).autoEjectTicks = 0 → (nextCard s).present = false →
            exec i s = .next (frameDone s 0x0001D100 (List.replicate (rest.length + 1) 0x00) []))

/-- Every PS2-native command to a PS1-type card is answered with the preamble and zeros up to the command length: no
operand is popped, no slot record and no card changes (R204). -/
def Obligations.Ps1TypeGuard : Prop :=
  ∀ (i : Instr) (c : Byte) (rest : List Byte) (s : State), encode i = .frame (0x81 :: c :: rest) →
    c ∈ ([0x11, 0x21, 0x22, 0x23, 0x26, 0x27, 0x28, 0x42, 0x43, 0x81, 0x82, 0xBF, 0xF0, 0xF3, 0xF7] : List Byte) →
    frameReady (rest.length + 2) s = true → cardAnswers s = true → (nextCard s).isPSX = true →
      exec i s =
        .next
          (frameDone s 0x00001100
            ([0x00, (nextSlot s).flag] ++ List.replicate (nextLength s - 2 - alreadyCounted s) 0x00) rest)

/-- The commands with the plain 2b-terminator reply and no other effect: Probe (R206) and ReadWriteEnd (R222) of 4 bytes,
UnknownBoot (R225), AuthF3 and AuthF7 (R230) of 5. -/
def Obligations.PlainReplies : Prop :=
  ∀ (rest : List Byte) (s : State), frameReady (rest.length + 2) s = true → cardAnswers s = true →
    let done (reply : List Byte) := frameDone s 0x00001100 (nativeReply s reply) rest
    exec (.mcProbe rest) s = .next (done [0x00, (nextSlot s).flag, 0x2B, (nextSlot s).term])
      ∧ exec (.mcReadWriteEnd rest) s = .next (done [0x00, (nextSlot s).flag, 0x2B, (nextSlot s).term])
      ∧ exec (.mcUnknownBoot rest) s = .next (done (plainReply 5 s))
      ∧ exec (.mcAuthF3 rest) s = .next (done (plainReply 5 s))
      ∧ exec (.mcAuthF7 rest) s = .next (done (plainReply 5 s))
      ∧ (alreadyCounted s = 0 →
          plainReply 5 s = [0x00, (nextSlot s).flag, 0x00, 0x2B, (nextSlot s).term])

/-- AuthXor, for each of its 21 sub-modes and every other value, on a PS2-type card: the short shape (R228), the long
shape without a payload (R229), the long shape with the payload's exclusive or (R227), which a frame with fewer than
8 payload bytes is too short for (R7), and the preamble alone for an unknown sub-mode (R231). -/
def Obligations.AuthXorShapes : Prop :=
  ∀ (i : Instr) (sub : Byte) (rest : List Byte) (s : State), encode i = .frame (0x81 :: 0xF0 :: sub :: rest) →
    frameReady (rest.length + 3) s = true → cardAnswers s = true → (nextCard s).isPSX = false →
      (sub ∈ ([0x00, 0x03, 0x05, 0x08, 0x09, 0x0A, 0x0C, 0x0D, 0x0E, 0x10, 0x12, 0x14] : List Byte) →
        exec i s = .next (frameDone s 0x00001100 (plainReply 5 s) rest))
        ∧ (sub ∈ ([0x06, 0x07, 0x0B] : List Byte) →
            exec i s = .next (frameDone s 0x00001100 (plainReply 14 s) rest))
        ∧ (sub ∈ ([0x01, 0x02, 0x04, 0x0F, 0x11, 0x13] : List Byte) → 8 ≤ rest.length →
            exec i s =
              .next
                (frameDone s 0x00001100
                  ([0x00, (nextSlot s).flag, 0x00, 0x2B] ++ List.replicate 8 0x00
                    ++ [xorOf (rest.take 8), (nextSlot s).term])
                  (rest.drop 8)))
        ∧ (sub ∈ ([0x01, 0x02, 0x04, 0x0F, 0x11, 0x13] : List Byte) → rest.length < 8 →
            exec i s = .refused .frameTooShort)
        ∧ (0x14 < sub.toNat → exec i s = .next (frameDone s 0x00001100 [0x00, (nextSlot s).flag] rest))

/-- EraseBlock (R224): one erase call at transferAddr, the plain reply of 4 bytes, the slot record unchanged. What the
bytes of the block read as afterwards is not known, every other byte of every card reads as before; which bytes the
block is, is the model's reading (log 5). -/
def Obligations.EraseBlock : Prop :=
  ∀ (rest : List Byte) (s : State), State.wf s = true → frameReady (rest.length + 2) s = true →
    cardAnswers s = true →
      let p := nextPort s
      let q := s.blk.sio2.slot
      let addr := (nextSlot s).transferAddr
      ((nextCard s).isPSX = true →
        exec (.mcEraseBlock rest) s = .next (frameDone s 0x00001100 (guardReply s) rest))
        ∧ ((nextCard s).isPSX = false →
            ∃ t, exec (.mcEraseBlock rest) s = .next t
              ∧ t =
                  { frameDone s 0x00001100 [0x00, (nextSlot s).flag, 0x2B, (nextSlot s).term] rest with
                    events := s.events ++ [.cardErase p q addr]
                    cards := t.cards }
              ∧ ∀ (p' : Port) (q' : Slot) (a : Word),
                  Memory.byteAt (cardMem p' q' t) a.toNat =
                    if p' = p ∧ q' = q ∧ (nextCard s).admitsErase = true
                        ∧ inEraseBlock (nextCard s).geometry s.params.eccBytes addr a.toNat = true then none
                    else Memory.byteAt (cardMem p' q' s) a.toNat)

/-- SetSector, one operation under three codes (R210): the little-endian address, its check in goodSector, the byte
address `(sectorSize + ECC_BYTES) * sectorAddr` modulo 2^32 for a good and a bad check alike, the plain reply of 9
bytes. -/
def Obligations.SetSector : Prop :=
  ∀ (a0 a1 a2 a3 chk : Byte) (rest : List Byte) (s : State), frameReady (rest.length + 7) s = true →
    cardAnswers s = true →
      let sector := a0.toNat + 256 * a1.toNat + 65536 * a2.toNat + 16777216 * a3.toNat
      let t :=
        if (nextCard s).isPSX then frameDone s 0x00001100 (guardReply s) (a0 :: a1 :: a2 :: a3 :: chk :: rest)
        else
          frameDoneSlot s
            { nextSlot s with
              sectorAddr := BitVec.ofNat 32 sector
              goodSector := decide (a0 ^^^ a1 ^^^ a2 ^^^ a3 = chk)
              transferAddr :=
                BitVec.ofNat 32 (((nextCard s).geometry.sectorSize.toNat + s.params.eccBytes) * sector) }
            (plainReply 9 s) rest
      exec (.mcSetEraseSector a0 a1 a2 a3 chk rest) s = .next t
        ∧ exec (.mcSetWriteSector a0 a1 a2 a3 chk rest) s = .next t
        ∧ exec (.mcSetReadSector a0 a1 a2 a3 chk rest) s = .next t

/-- GetSpecs answers the card's geometry, each field least significant byte first (R212, R48), and changes nothing. -/
def Obligations.GetSpecs : Prop :=
  ∀ (rest : List Byte) (s : State), frameReady (rest.length + 2) s = true → cardAnswers s = true →
    let g := (nextCard s).geometry
    exec (.mcGetSpecs rest) s =
      .next
        (frameDone s 0x00001100
          (nativeReply s
            [0x00, (nextSlot s).flag, 0x2B,
              BitVec.ofNat 8 g.sectorSize.toNat, BitVec.ofNat 8 (g.sectorSize.toNat / 256),
              BitVec.ofNat 8 g.eraseBlockSectors.toNat, BitVec.ofNat 8 (g.eraseBlockSectors.toNat / 256),
              BitVec.ofNat 8 g.totalSectors.toNat, BitVec.ofNat 8 (g.totalSectors.toNat / 256),
              BitVec.ofNat 8 (g.totalSectors.toNat / 65536), BitVec.ofNat 8 (g.totalSectors.toNat / 16777216),
              g.xorConstant, (nextSlot s).term])
          rest)

/-- SetTerminator stores its operand and answers with the terminator in force before (R214); GetTerminator answers the
terminator and the constant 0x55, and changes nothing (R216). -/
def Obligations.Terminators : Prop :=
  ∀ (x : Byte) (rest : List Byte) (s : State), cardAnswers s = true →
    (frameReady (rest.length + 3) s = true →
      exec (.mcSetTerminator x rest) s =
        .next
          (if (nextCard s).isPSX then frameDone s 0x00001100 (guardReply s) (x :: rest)
          else
            frameDoneSlot s { nextSlot s with term := x }
              [0x00, (nextSlot s).flag, 0x00, 0x2B, (nextSlot s).term] rest))
      ∧ (frameReady (rest.length + 2) s = true →
          exec (.mcGetTerminator rest) s =
            .next
              (frameDone s 0x00001100
                (nativeReply s [0x00, (nextSlot s).flag, 0x2B, (nextSlot s).term, 0x55]) rest))

/-- WriteData (R218): its bytes are saved from transferAddr on by one call, the reply carries their exclusive or (or 0x2B,
WRITE_DATA_TRAILER), transferAddr advances by the length; a frame with fewer bytes than the length is too short (R7).
Every byte of every card outside the stored ones reads as before; that a transfer past 2^32 goes on at 0 is the
model's reading (log 6). -/
def Obligations.WriteData : Prop :=
  ∀ (len : Byte) (rest : List Byte) (s : State), State.wf s = true → frameReady (rest.length + 3) s = true →
    cardAnswers s = true →
      let p := nextPort s
      let q := s.blk.sio2.slot
      let addr := (nextSlot s).transferAddr
      let n := len.toNat
      ((nextCard s).isPSX = true →
        exec (.mcWriteData len rest) s = .next (frameDone s 0x00001100 (guardReply s) (len :: rest)))
        ∧ ((nextCard s).isPSX = false → rest.length < n → exec (.mcWriteData len rest) s = .refused .frameTooShort)
        ∧ ((nextCard s).isPSX = false → n ≤ rest.length →
            ∃ t, exec (.mcWriteData len rest) s = .next t
              ∧ Saved p q addr (rest.take n) s t
              ∧ t =
                  { frameDoneSlot s { nextSlot s with transferAddr := addr + BitVec.ofNat 32 n }
                      ([0x00, (nextSlot s).flag, 0x00, 0x2B] ++ List.replicate n 0x00
                        ++ [if s.params.writeDataTrailer = .checksum then xorOf (rest.take n) else 0x2B,
                          (nextSlot s).term])
                      (rest.drop n) with
                    events := s.events ++ [.cardSave p q addr (rest.take n)]
                    cards := t.cards })

/-- ReadData (R220): the bytes at transferAddr, by one call, then their exclusive or and the terminator; transferAddr
advances by the length. A byte the block saved reads as saved, a refused read is all zeros (R8, R47); any other byte
is a free value (log 4). That a read past address 0xFFFFFFFF goes on at 0 is the model's reading (log 6). -/
def Obligations.ReadData : Prop :=
  ∀ (len : Byte) (rest : List Byte) (s : State), frameReady (rest.length + 3) s = true →
    cardAnswers s = true →
      let p := nextPort s
      let q := s.blk.sio2.slot
      let addr := (nextSlot s).transferAddr
      let n := len.toNat
      ((nextCard s).isPSX = true →
        exec (.mcReadData len rest) s = .next (frameDone s 0x00001100 (guardReply s) (len :: rest)))
        ∧ ((nextCard s).isPSX = false →
            ∃ bytes : List Byte,
              bytes.length = n
                ∧ ((nextCard s).admitsRead = false → bytes = List.replicate n 0x00)
                ∧ ((nextCard s).admitsRead = true → ∀ (k : Nat) (b : Byte), k < n →
                    Memory.byteAt (cardMem p q s) (addr + BitVec.ofNat 32 k).toNat = some b → bytes[k]? = some b)
                ∧ exec (.mcReadData len rest) s =
                    .next
                      { frameDoneSlot s { nextSlot s with transferAddr := addr + BitVec.ofNat 32 n }
                          ([0x00, (nextSlot s).flag, 0x00, 0x2B] ++ bytes ++ [xorOf bytes, (nextSlot s).term])
                          rest with
                        events := s.events ++ [.cardRead p q addr n]
                        freeCount := s.freeCount + 1 })

/-- Memory-card frames with the preamble and little more, whatever the card's type: an unknown command (R232); the
Pocketstation probe, disconnected (R262); State, one 0x00 for each further byte (R260, R266). -/
def Obligations.SmallMemcardFrames : Prop :=
  ∀ (rest : List Byte) (s : State), frameReady (rest.length + 2) s = true → cardAnswers s = true →
    (∀ c : Byte, Instr.wf (.mcUnknown c rest) = true →
      exec (.mcUnknown c rest) s = .next (frameDone s 0x00001100 [0x00, (nextSlot s).flag] rest))
      ∧ exec (.mcPs1Pocketstation rest) s =
          .next (frameDone s 0x0001D100 [0x00, (nextSlot s).flag, 0x00] rest)
      ∧ exec (.mcPs1State rest) s =
          .next
            { frameDone s 0x00001100 ([0x00, (nextSlot s).flag] ++ List.replicate rest.length 0x00) [] with
              blk.ps1 := { Ps1.start with cursor := 2 + rest.length } }

/-- A PS1 Read nested in a frame of any length (R266): the reply has as many bytes as the frame, and as far as the layout
goes they are the handshakes, the echoed address, the 128 bytes at 128 times the sector address, their exclusive or on
the seed, and 0x47 (R244, R247). No card changes; of the slot records only the addressed one, by the address. -/
def Obligations.NestedPs1Read : Prop :=
  ∀ (rest : List Byte) (s : State), frameReady (rest.length + 2) s = true → cardAnswers s = true →
    let p := nextPort s
    let q := s.blk.sio2.slot
    let msb := rest.getD 2 0
    let lsb := rest.getD 3 0
    let bytes := cardReadBytes p q (BitVec.ofNat 32 (128 * (256 * msb.toNat + lsb.toNat))) 128 s
    let layout :=
      [0x00, (nextSlot s).flag, 0x5A, 0x5D, 0x00, 0x00, 0x5C, 0x5D, msb, lsb] ++ bytes
        ++ [seed s msb lsb ^^^ xorOf bytes, 0x47]
    ∃ (reply : List Byte) (t : State),
      exec (.mcPs1Read rest) s = .next t
        ∧ reply.length = rest.length + 2
        ∧ reply.take 140 = layout.take (rest.length + 2)
        ∧ t =
            { frameDone s 0x00001100 reply [] with
              blk.sio0.stat := s.blk.sio0.stat ||| (if rest = [] then 0 else 0x00000080)
              blk.mcd := t.blk.mcd
              blk.ps1 := t.blk.ps1
              events := t.events
              freeCount := t.freeCount }
        ∧ t.blk.ps1.cursor = 2 + rest.length
        ∧ (138 ≤ rest.length → t.blk.ps1.buf.toList = bytes)
        ∧ ∀ p' q', slotRec p' q' t =
            if p' = p ∧ q' = q ∧ 4 ≤ rest.length then addressed (slotRec p' q' s) msb lsb else slotRec p' q' s

/-- A PS1 Write nested in a frame of any length (R266): the reply has as many bytes as the frame, and as far as the layout
goes they are the handshakes, zeros, and the status (R252, R258). Nothing reaches a card before the 138th byte, and
then only with status 0x47: the 128 bytes at 128 times the sector address, every other byte of every card unchanged. -/
def Obligations.NestedPs1Write : Prop :=
  ∀ (rest : List Byte) (s : State), State.wf s = true → frameReady (rest.length + 2) s = true →
    cardAnswers s = true →
    let p := nextPort s
    let q := s.blk.sio2.slot
    let msb := rest.getD 2 0
    let lsb := rest.getD 3 0
    let sector := 256 * msb.toNat + lsb.toNat
    let data := (rest.drop 4).take 128
    let status : Byte :=
      if rest.getD 132 0 ≠ seed s msb lsb ^^^ xorOf data then 0x4E else if 0x3FF < sector then 0xFF else 0x47
    let layout :=
      [0x00, (nextSlot s).flag, 0x5A, 0x5D, 0x00, 0x00] ++ List.replicate 128 0x00 ++ [0x00, 0x5C, 0x5D, status]
    let saved := 136 ≤ rest.length ∧ status = 0x47
    ∃ (reply : List Byte) (t : State),
      exec (.mcPs1Write rest) s = .next t
        ∧ reply.length = rest.length + 2
        ∧ reply.take 138 = layout.take (rest.length + 2)
        ∧ t =
            { frameDone s 0x00001100 reply [] with
              blk.sio0.stat := s.blk.sio0.stat ||| (if rest = [] then 0 else 0x00000080)
              blk.mcd := t.blk.mcd
              blk.ps1 := t.blk.ps1
              cards := t.cards
              events := t.events
              freeCount := t.freeCount }
        ∧ t.blk.ps1.cursor = 2 + rest.length
        ∧ (saved → Saved p q (BitVec.ofNat 32 (128 * sector)) data s t)
        ∧ (¬saved → t.cards = s.cards)
        ∧ (∀ p' q', ¬(p' = p ∧ q' = q) → slotRec p' q' t = slotRec p' q' s)
        ∧ (rest.length < 4 → slotRec p q t = slotRec p q s)
        ∧ (4 ≤ rest.length → ¬saved → slotRec p q t = addressed (slotRec p q s) msb lsb)
        ∧ (saved →
            slotRec p q t =
              { addressed (slotRec p q s) msb lsb with flag := (slotRec p q s).flag &&& 0xF7 })

/-- WriteData followed by SetSector of the same sector and ReadData of the same length answers exactly the bytes written
(R47), for any data, sector and card the three frames of one cycle address, in direct mode. That a transfer past address
0xFFFFFFFF goes on at 0 is the model's reading (log 6). -/
def Obligations.WriteThenReadAnswersTheBytes : Prop :=
  ∀ (len a0 a1 a2 a3 chk : Byte) (data fill fill' : List Byte) (s : State) (i : Nat) (h : i + 2 < 16),
    let r := s.blk.sio2
    State.wf s = true → r.send3Read = false → r.send3Complete = false → r.dmaBlockSize = 0 → r.send3Position = i →
    entryLength r.send3[i] = data.length + 3 →
    entryLength r.send3[i + 1] = fill.length + 7 →
    entryLength r.send3[i + 2] = fill'.length + 3 →
    entryPort r.send3[i + 1] = entryPort r.send3[i] →
    entryPort r.send3[i + 2] = entryPort r.send3[i] →
    cardAnswers s = true → (nextCard s).isPSX = false →
    (nextCard s).admitsSave = true → (nextCard s).admitsRead = true →
    (nextSlot s).transferAddr =
      sectorByteAddress (nextCard s).geometry s.params.eccBytes (wordOfBytes a0 a1 a2 a3) →
    len.toNat ≤ data.length →
      ∃ t, runAll
          [.mcWriteData len data, .mcSetReadSector a0 a1 a2 a3 chk fill, .mcReadData len fill'] s = .next t
        ∧ ([0x00, (nextSlot s).flag, 0x00, 0x2B] ++ data.take len.toNat
            ++ [xorOf (data.take len.toNat), (nextSlot s).term]) <:+ t.blk.fifoOut

end
end

