-- ==== Sys2Proof/Laws/Decode.lean ====
section
/-! SUPPORT. The decoder's tables, said once: a register and its address, and what each classification of a byte
answers. -/

namespace Sys2Proof

/-! ### Registers -/

theorem regAt_addr (r : Reg) : regAt r.addr = some r := by
  cases r with
  | send3 i => revert i; decide
  | send1 i => revert i; decide
  | send2 i => revert i; decide
  | _ => decide

/-- The addresses of the indexed banks, as bits. -/
theorem send3_addr : ∀ i : Fin 16,
    (Reg.send3 i).addr = 0x1F808200 ||| ((BitVec.ofFin (w := 4) i).setWidth 32 <<< 2) := by
  decide

theorem send1_addr : ∀ i : Fin 4,
    (Reg.send1 i).addr = 0x1F808240 ||| ((BitVec.ofFin (w := 2) i).setWidth 32 <<< 3) := by
  decide

theorem send2_addr : ∀ i : Fin 4,
    (Reg.send2 i).addr = 0x1F808244 ||| ((BitVec.ofFin (w := 2) i).setWidth 32 <<< 3) := by
  decide

theorem send3_of_mask (a : Word) (h : a &&& 0xFFFFFFC3 = 0x1F808200) :
    a = 0x1F808200 ||| ((a.extractLsb' 2 4).setWidth 32 <<< 2) := by
  apply BitVec.eq_of_getLsbD_eq
  intro j hj
  have := congrArg (fun x => x.getLsbD j) h
  interval_cases j <;> simp at this ⊢ <;> assumption

theorem send1_of_mask (a : Word) (h : a &&& 0xFFFFFFE7 = 0x1F808240) :
    a = 0x1F808240 ||| ((a.extractLsb' 3 2).setWidth 32 <<< 3) := by
  apply BitVec.eq_of_getLsbD_eq
  intro j hj
  have := congrArg (fun x => x.getLsbD j) h
  interval_cases j <;> simp at this ⊢ <;> assumption

theorem send2_of_mask (a : Word) (h : a &&& 0xFFFFFFE7 = 0x1F808244) :
    a = 0x1F808244 ||| ((a.extractLsb' 3 2).setWidth 32 <<< 3) := by
  apply BitVec.eq_of_getLsbD_eq
  intro j hj
  have := congrArg (fun x => x.getLsbD j) h
  interval_cases j <;> simp at this ⊢ <;> assumption

/-- An `if` that answers some value does so by one of its branches. -/
theorem ite_eq_some {α : Type} {c : Prop} [Decidable c] {x : α} {y : Option α} {r : α}
    (h : (if c then some x else y) = some r) : (c ∧ x = r) ∨ y = some r := by
  by_cases hc : c
  · rw [if_pos hc] at h
    exact .inl ⟨hc, Option.some.inj h⟩
  · rw [if_neg hc] at h
    exact .inr h

theorem addr_of_regAt (a : Word) (r : Reg) (h : regAt a = some r) : a = r.addr := by
  rcases ite_eq_some h with ⟨hc, rfl⟩ | h
  · exact hc
  rcases ite_eq_some h with ⟨hc, rfl⟩ | h
  · exact hc
  rcases ite_eq_some h with ⟨hc, rfl⟩ | h
  · exact hc
  rcases ite_eq_some h with ⟨hc, rfl⟩ | h
  · exact hc
  rcases ite_eq_some h with ⟨hc, rfl⟩ | h
  · rw [send3_addr]
    exact send3_of_mask a hc
  rcases ite_eq_some h with ⟨hc, rfl⟩ | h
  · rw [send1_addr]
    exact send1_of_mask a hc
  rcases ite_eq_some h with ⟨hc, rfl⟩ | h
  · rw [send2_addr]
    exact send2_of_mask a hc
  rcases ite_eq_some h with ⟨hc, rfl⟩ | h
  · exact hc
  rcases ite_eq_some h with ⟨hc, rfl⟩ | h
  · exact hc
  rcases ite_eq_some h with ⟨hc, rfl⟩ | h
  · exact hc
  rcases ite_eq_some h with ⟨hc, rfl⟩ | h
  · exact hc
  rcases ite_eq_some h with ⟨hc, rfl⟩ | h
  · exact hc
  rcases ite_eq_some h with ⟨hc, rfl⟩ | h
  · exact hc
  · cases h

/-! ### Bytes -/

/-! ### The lists of codes in the spec's numbers -/

@[simp] theorem Codes.frameModes_eq : Codes.frameModes = [0x01, 0x21, 0x61, 0x81] := rfl

@[simp] theorem Codes.transactionModes_eq : Codes.transactionModes = [0x01, 0x81] := rfl

@[simp] theorem Codes.mtapCommands_eq : Codes.mtapCommands = [0x12, 0x13, 0x21, 0x22] := rfl

@[simp] theorem Codes.ps1Commands_eq : Codes.ps1Commands = [0x52, 0x53, 0x57, 0x58] := rfl

@[simp] theorem Codes.memcardCommands_eq :
    Codes.memcardCommands =
      [0x11, 0x21, 0x22, 0x23, 0x26, 0x27, 0x28, 0x42, 0x43, 0x81, 0x82, 0xBF, 0xF0, 0xF3, 0xF7, 0x52, 0x53, 0x57,
        0x58] := rfl

/-- The classes of R74 cover 0x00 to 0x14. -/
theorem Codes.authSubModes_contains : ∀ sub : Byte, (!Codes.authSubModes.contains sub) = decide (0x14 < sub.toNat) := by
  decide

/-! ### What a byte selects -/

theorem frameModeOf_cases : ∀ m : Byte,
    (frameModeOf m = .pad ∧ m = 0x01) ∨ (frameModeOf m = .multitap ∧ m = 0x21)
      ∨ (frameModeOf m = .infrared ∧ m = 0x61) ∨ (frameModeOf m = .memcard ∧ m = 0x81)
      ∨ (frameModeOf m = .unknown ∧ ([0x01, 0x21, 0x61, 0x81] : List Byte).contains m = false) := by
  decide

theorem mtapCommandOf_cases : ∀ c : Byte,
    (mtapCommandOf c = .padSupportCheck ∧ c = 0x12) ∨ (mtapCommandOf c = .memcardSupportCheck ∧ c = 0x13)
      ∨ (mtapCommandOf c = .selectPad ∧ c = 0x21) ∨ (mtapCommandOf c = .selectMemcard ∧ c = 0x22)
      ∨ (mtapCommandOf c = .unknown ∧ ([0x12, 0x13, 0x21, 0x22] : List Byte).contains c = false) := by
  decide

theorem mcCommandOf_cases : ∀ c : Byte,
    (mcCommandOf c = .probe ∧ c = 0x11) ∨ (mcCommandOf c = .setEraseSector ∧ c = 0x21)
      ∨ (mcCommandOf c = .setWriteSector ∧ c = 0x22) ∨ (mcCommandOf c = .setReadSector ∧ c = 0x23)
      ∨ (mcCommandOf c = .getSpecs ∧ c = 0x26) ∨ (mcCommandOf c = .setTerminator ∧ c = 0x27)
      ∨ (mcCommandOf c = .getTerminator ∧ c = 0x28) ∨ (mcCommandOf c = .writeData ∧ c = 0x42)
      ∨ (mcCommandOf c = .readData ∧ c = 0x43) ∨ (mcCommandOf c = .ps1Read ∧ c = 0x52)
      ∨ (mcCommandOf c = .ps1State ∧ c = 0x53) ∨ (mcCommandOf c = .ps1Write ∧ c = 0x57)
      ∨ (mcCommandOf c = .ps1Pocketstation ∧ c = 0x58) ∨ (mcCommandOf c = .readWriteEnd ∧ c = 0x81)
      ∨ (mcCommandOf c = .eraseBlock ∧ c = 0x82) ∨ (mcCommandOf c = .unknownBoot ∧ c = 0xBF)
      ∨ (mcCommandOf c = .authXor ∧ c = 0xF0) ∨ (mcCommandOf c = .authF3 ∧ c = 0xF3)
      ∨ (mcCommandOf c = .authF7 ∧ c = 0xF7)
      ∨ (mcCommandOf c = .unknown ∧ Codes.memcardCommands.contains c = false) := by
  decide

theorem ps1CommandOf_cases : ∀ c : Byte,
    (ps1CommandOf c = .read ∧ c = 0x52) ∨ (ps1CommandOf c = .state ∧ c = 0x53)
      ∨ (ps1CommandOf c = .write ∧ c = 0x57) ∨ (ps1CommandOf c = .pocketstation ∧ c = 0x58)
      ∨ (ps1CommandOf c = .unknown ∧ ([0x52, 0x53, 0x57, 0x58] : List Byte).contains c = false) := by
  decide

theorem authClassOf_cases : ∀ sub : Byte,
    (authClassOf sub = .longXor ∧ ([0x01, 0x02, 0x04, 0x0F, 0x11, 0x13] : List Byte).contains sub = true)
      ∨ (authClassOf sub = .longNoXor ∧ ([0x06, 0x07, 0x0B] : List Byte).contains sub = true)
      ∨ (authClassOf sub = .short
          ∧ ([0x00, 0x03, 0x05, 0x08, 0x09, 0x0A, 0x0C, 0x0D, 0x0E, 0x10, 0x12, 0x14] : List Byte).contains sub = true)
      ∨ (authClassOf sub = .unknown ∧ 0x14 < sub.toNat) := by
  decide

theorem isPadCommand_iff : ∀ c : Byte, Codes.isPadCommand c = true ↔ 0x40 ≤ c.toNat ∧ c.toNat ≤ 0x4F := by
  decide

theorem isPadCommand_padCommandByte : ∀ c : BitVec 4,
    Codes.isPadCommand (padCommandByte c) = true ∧ (padCommandByte c).setWidth 4 = c := by
  decide

end Sys2Proof
end

