-- ==== Sys2Proof/Laws/State.lean ====
section
/-! SUPPORT. One lemma for each field and each primitive update of Ops.lean, all by `rfl`: a proof reads a field through
any tower of updates without unfolding a record. -/

namespace Sys2Proof.Machine

variable (s : State)

/-! ### emit -/

@[simp] theorem emit_sio0 (e : Event) : (emit e s).blk.sio0 = s.blk.sio0 := rfl
@[simp] theorem emit_sio2 (e : Event) : (emit e s).blk.sio2 = s.blk.sio2 := rfl
@[simp] theorem emit_fifoIn (e : Event) : (emit e s).blk.fifoIn = s.blk.fifoIn := rfl
@[simp] theorem emit_fifoOut (e : Event) : (emit e s).blk.fifoOut = s.blk.fifoOut := rfl
@[simp] theorem emit_mcd (e : Event) : (emit e s).blk.mcd = s.blk.mcd := rfl
@[simp] theorem emit_ps1 (e : Event) : (emit e s).blk.ps1 = s.blk.ps1 := rfl
@[simp] theorem emit_pad (e : Event) : (emit e s).inputs.pad = s.inputs.pad := rfl
@[simp] theorem emit_card (e : Event) : (emit e s).inputs.card = s.inputs.card := rfl
@[simp] theorem emit_multitapEnabled (e : Event) : (emit e s).inputs.multitapEnabled = s.inputs.multitapEnabled := rfl
@[simp] theorem emit_params (e : Event) : (emit e s).params = s.params := rfl
@[simp] theorem emit_cards (e : Event) : (emit e s).cards = s.cards := rfl
@[simp] theorem emit_pending (e : Event) : (emit e s).pending = s.pending := rfl
@[simp] theorem emit_events (e : Event) : (emit e s).events = s.events ++ [e] := rfl
@[simp] theorem emit_freeCount (e : Event) : (emit e s).freeCount = s.freeCount := rfl
@[simp] theorem emit_inputs (e : Event) : (emit e s).inputs = s.inputs := rfl
@[simp] theorem slotRec_emit (p : Port) (q : Slot) (e : Event) : slotRec p q (emit e s) = slotRec p q s := rfl
@[simp] theorem cardMem_emit (p : Port) (q : Slot) (e : Event) : cardMem p q (emit e s) = cardMem p q s := rfl
@[simp] theorem cardInput_emit (p : Port) (q : Slot) (e : Event) : cardInput p q (emit e s) = cardInput p q s := rfl

/-! ### pushOut -/

@[simp] theorem pushOut_sio0 (l : List Byte) : (pushOut l s).blk.sio0 = s.blk.sio0 := rfl
@[simp] theorem pushOut_sio2 (l : List Byte) : (pushOut l s).blk.sio2 = s.blk.sio2 := rfl
@[simp] theorem pushOut_fifoIn (l : List Byte) : (pushOut l s).blk.fifoIn = s.blk.fifoIn := rfl
@[simp] theorem pushOut_fifoOut (l : List Byte) : (pushOut l s).blk.fifoOut = s.blk.fifoOut ++ l := rfl
@[simp] theorem pushOut_mcd (l : List Byte) : (pushOut l s).blk.mcd = s.blk.mcd := rfl
@[simp] theorem pushOut_ps1 (l : List Byte) : (pushOut l s).blk.ps1 = s.blk.ps1 := rfl
@[simp] theorem pushOut_pad (l : List Byte) : (pushOut l s).inputs.pad = s.inputs.pad := rfl
@[simp] theorem pushOut_card (l : List Byte) : (pushOut l s).inputs.card = s.inputs.card := rfl
@[simp] theorem pushOut_multitapEnabled (l : List Byte) : (pushOut l s).inputs.multitapEnabled = s.inputs.multitapEnabled := rfl
@[simp] theorem pushOut_params (l : List Byte) : (pushOut l s).params = s.params := rfl
@[simp] theorem pushOut_cards (l : List Byte) : (pushOut l s).cards = s.cards := rfl
@[simp] theorem pushOut_pending (l : List Byte) : (pushOut l s).pending = s.pending := rfl
@[simp] theorem pushOut_events (l : List Byte) : (pushOut l s).events = s.events := rfl
@[simp] theorem pushOut_freeCount (l : List Byte) : (pushOut l s).freeCount = s.freeCount := rfl
@[simp] theorem pushOut_inputs (l : List Byte) : (pushOut l s).inputs = s.inputs := rfl
@[simp] theorem slotRec_pushOut (p : Port) (q : Slot) (l : List Byte) : slotRec p q (pushOut l s) = slotRec p q s := rfl
@[simp] theorem cardMem_pushOut (p : Port) (q : Slot) (l : List Byte) : cardMem p q (pushOut l s) = cardMem p q s := rfl
@[simp] theorem cardInput_pushOut (p : Port) (q : Slot) (l : List Byte) : cardInput p q (pushOut l s) = cardInput p q s := rfl

/-! ### setFifoIn -/

@[simp] theorem setFifoIn_sio0 (l : List Byte) : (setFifoIn l s).blk.sio0 = s.blk.sio0 := rfl
@[simp] theorem setFifoIn_sio2 (l : List Byte) : (setFifoIn l s).blk.sio2 = s.blk.sio2 := rfl
@[simp] theorem setFifoIn_fifoIn (l : List Byte) : (setFifoIn l s).blk.fifoIn = l := rfl
@[simp] theorem setFifoIn_fifoOut (l : List Byte) : (setFifoIn l s).blk.fifoOut = s.blk.fifoOut := rfl
@[simp] theorem setFifoIn_mcd (l : List Byte) : (setFifoIn l s).blk.mcd = s.blk.mcd := rfl
@[simp] theorem setFifoIn_ps1 (l : List Byte) : (setFifoIn l s).blk.ps1 = s.blk.ps1 := rfl
@[simp] theorem setFifoIn_pad (l : List Byte) : (setFifoIn l s).inputs.pad = s.inputs.pad := rfl
@[simp] theorem setFifoIn_card (l : List Byte) : (setFifoIn l s).inputs.card = s.inputs.card := rfl
@[simp] theorem setFifoIn_multitapEnabled (l : List Byte) : (setFifoIn l s).inputs.multitapEnabled = s.inputs.multitapEnabled := rfl
@[simp] theorem setFifoIn_params (l : List Byte) : (setFifoIn l s).params = s.params := rfl
@[simp] theorem setFifoIn_cards (l : List Byte) : (setFifoIn l s).cards = s.cards := rfl
@[simp] theorem setFifoIn_pending (l : List Byte) : (setFifoIn l s).pending = s.pending := rfl
@[simp] theorem setFifoIn_events (l : List Byte) : (setFifoIn l s).events = s.events := rfl
@[simp] theorem setFifoIn_freeCount (l : List Byte) : (setFifoIn l s).freeCount = s.freeCount := rfl
@[simp] theorem setFifoIn_inputs (l : List Byte) : (setFifoIn l s).inputs = s.inputs := rfl
@[simp] theorem slotRec_setFifoIn (p : Port) (q : Slot) (l : List Byte) : slotRec p q (setFifoIn l s) = slotRec p q s := rfl
@[simp] theorem cardMem_setFifoIn (p : Port) (q : Slot) (l : List Byte) : cardMem p q (setFifoIn l s) = cardMem p q s := rfl
@[simp] theorem cardInput_setFifoIn (p : Port) (q : Slot) (l : List Byte) : cardInput p q (setFifoIn l s) = cardInput p q s := rfl

/-! ### setFifoOut -/

@[simp] theorem setFifoOut_sio0 (l : List Byte) : (setFifoOut l s).blk.sio0 = s.blk.sio0 := rfl
@[simp] theorem setFifoOut_sio2 (l : List Byte) : (setFifoOut l s).blk.sio2 = s.blk.sio2 := rfl
@[simp] theorem setFifoOut_fifoIn (l : List Byte) : (setFifoOut l s).blk.fifoIn = s.blk.fifoIn := rfl
@[simp] theorem setFifoOut_fifoOut (l : List Byte) : (setFifoOut l s).blk.fifoOut = l := rfl
@[simp] theorem setFifoOut_mcd (l : List Byte) : (setFifoOut l s).blk.mcd = s.blk.mcd := rfl
@[simp] theorem setFifoOut_ps1 (l : List Byte) : (setFifoOut l s).blk.ps1 = s.blk.ps1 := rfl
@[simp] theorem setFifoOut_pad (l : List Byte) : (setFifoOut l s).inputs.pad = s.inputs.pad := rfl
@[simp] theorem setFifoOut_card (l : List Byte) : (setFifoOut l s).inputs.card = s.inputs.card := rfl
@[simp] theorem setFifoOut_multitapEnabled (l : List Byte) : (setFifoOut l s).inputs.multitapEnabled = s.inputs.multitapEnabled := rfl
@[simp] theorem setFifoOut_params (l : List Byte) : (setFifoOut l s).params = s.params := rfl
@[simp] theorem setFifoOut_cards (l : List Byte) : (setFifoOut l s).cards = s.cards := rfl
@[simp] theorem setFifoOut_pending (l : List Byte) : (setFifoOut l s).pending = s.pending := rfl
@[simp] theorem setFifoOut_events (l : List Byte) : (setFifoOut l s).events = s.events := rfl
@[simp] theorem setFifoOut_freeCount (l : List Byte) : (setFifoOut l s).freeCount = s.freeCount := rfl
@[simp] theorem setFifoOut_inputs (l : List Byte) : (setFifoOut l s).inputs = s.inputs := rfl
@[simp] theorem slotRec_setFifoOut (p : Port) (q : Slot) (l : List Byte) : slotRec p q (setFifoOut l s) = slotRec p q s := rfl
@[simp] theorem cardMem_setFifoOut (p : Port) (q : Slot) (l : List Byte) : cardMem p q (setFifoOut l s) = cardMem p q s := rfl
@[simp] theorem cardInput_setFifoOut (p : Port) (q : Slot) (l : List Byte) : cardInput p q (setFifoOut l s) = cardInput p q s := rfl

/-! ### setSio0 -/

@[simp] theorem setSio0_sio0 (r : Sio0) : (setSio0 r s).blk.sio0 = r := rfl
@[simp] theorem setSio0_sio2 (r : Sio0) : (setSio0 r s).blk.sio2 = s.blk.sio2 := rfl
@[simp] theorem setSio0_fifoIn (r : Sio0) : (setSio0 r s).blk.fifoIn = s.blk.fifoIn := rfl
@[simp] theorem setSio0_fifoOut (r : Sio0) : (setSio0 r s).blk.fifoOut = s.blk.fifoOut := rfl
@[simp] theorem setSio0_mcd (r : Sio0) : (setSio0 r s).blk.mcd = s.blk.mcd := rfl
@[simp] theorem setSio0_ps1 (r : Sio0) : (setSio0 r s).blk.ps1 = s.blk.ps1 := rfl
@[simp] theorem setSio0_pad (r : Sio0) : (setSio0 r s).inputs.pad = s.inputs.pad := rfl
@[simp] theorem setSio0_card (r : Sio0) : (setSio0 r s).inputs.card = s.inputs.card := rfl
@[simp] theorem setSio0_multitapEnabled (r : Sio0) : (setSio0 r s).inputs.multitapEnabled = s.inputs.multitapEnabled := rfl
@[simp] theorem setSio0_params (r : Sio0) : (setSio0 r s).params = s.params := rfl
@[simp] theorem setSio0_cards (r : Sio0) : (setSio0 r s).cards = s.cards := rfl
@[simp] theorem setSio0_pending (r : Sio0) : (setSio0 r s).pending = s.pending := rfl
@[simp] theorem setSio0_events (r : Sio0) : (setSio0 r s).events = s.events := rfl
@[simp] theorem setSio0_freeCount (r : Sio0) : (setSio0 r s).freeCount = s.freeCount := rfl
@[simp] theorem setSio0_inputs (r : Sio0) : (setSio0 r s).inputs = s.inputs := rfl
@[simp] theorem slotRec_setSio0 (p : Port) (q : Slot) (r : Sio0) : slotRec p q (setSio0 r s) = slotRec p q s := rfl
@[simp] theorem cardMem_setSio0 (p : Port) (q : Slot) (r : Sio0) : cardMem p q (setSio0 r s) = cardMem p q s := rfl
@[simp] theorem cardInput_setSio0 (p : Port) (q : Slot) (r : Sio0) : cardInput p q (setSio0 r s) = cardInput p q s := rfl

/-! ### setSio2 -/

@[simp] theorem setSio2_sio0 (r : Sio2) : (setSio2 r s).blk.sio0 = s.blk.sio0 := rfl
@[simp] theorem setSio2_sio2 (r : Sio2) : (setSio2 r s).blk.sio2 = r := rfl
@[simp] theorem setSio2_fifoIn (r : Sio2) : (setSio2 r s).blk.fifoIn = s.blk.fifoIn := rfl
@[simp] theorem setSio2_fifoOut (r : Sio2) : (setSio2 r s).blk.fifoOut = s.blk.fifoOut := rfl
@[simp] theorem setSio2_mcd (r : Sio2) : (setSio2 r s).blk.mcd = s.blk.mcd := rfl
@[simp] theorem setSio2_ps1 (r : Sio2) : (setSio2 r s).blk.ps1 = s.blk.ps1 := rfl
@[simp] theorem setSio2_pad (r : Sio2) : (setSio2 r s).inputs.pad = s.inputs.pad := rfl
@[simp] theorem setSio2_card (r : Sio2) : (setSio2 r s).inputs.card = s.inputs.card := rfl
@[simp] theorem setSio2_multitapEnabled (r : Sio2) : (setSio2 r s).inputs.multitapEnabled = s.inputs.multitapEnabled := rfl
@[simp] theorem setSio2_params (r : Sio2) : (setSio2 r s).params = s.params := rfl
@[simp] theorem setSio2_cards (r : Sio2) : (setSio2 r s).cards = s.cards := rfl
@[simp] theorem setSio2_pending (r : Sio2) : (setSio2 r s).pending = s.pending := rfl
@[simp] theorem setSio2_events (r : Sio2) : (setSio2 r s).events = s.events := rfl
@[simp] theorem setSio2_freeCount (r : Sio2) : (setSio2 r s).freeCount = s.freeCount := rfl
@[simp] theorem setSio2_inputs (r : Sio2) : (setSio2 r s).inputs = s.inputs := rfl
@[simp] theorem slotRec_setSio2 (p : Port) (q : Slot) (r : Sio2) : slotRec p q (setSio2 r s) = slotRec p q s := rfl
@[simp] theorem cardMem_setSio2 (p : Port) (q : Slot) (r : Sio2) : cardMem p q (setSio2 r s) = cardMem p q s := rfl
@[simp] theorem cardInput_setSio2 (p : Port) (q : Slot) (r : Sio2) : cardInput p q (setSio2 r s) = cardInput p q s := rfl

/-! ### setPs1 -/

@[simp] theorem setPs1_sio0 (r : Ps1) : (setPs1 r s).blk.sio0 = s.blk.sio0 := rfl
@[simp] theorem setPs1_sio2 (r : Ps1) : (setPs1 r s).blk.sio2 = s.blk.sio2 := rfl
@[simp] theorem setPs1_fifoIn (r : Ps1) : (setPs1 r s).blk.fifoIn = s.blk.fifoIn := rfl
@[simp] theorem setPs1_fifoOut (r : Ps1) : (setPs1 r s).blk.fifoOut = s.blk.fifoOut := rfl
@[simp] theorem setPs1_mcd (r : Ps1) : (setPs1 r s).blk.mcd = s.blk.mcd := rfl
@[simp] theorem setPs1_ps1 (r : Ps1) : (setPs1 r s).blk.ps1 = r := rfl
@[simp] theorem setPs1_pad (r : Ps1) : (setPs1 r s).inputs.pad = s.inputs.pad := rfl
@[simp] theorem setPs1_card (r : Ps1) : (setPs1 r s).inputs.card = s.inputs.card := rfl
@[simp] theorem setPs1_multitapEnabled (r : Ps1) : (setPs1 r s).inputs.multitapEnabled = s.inputs.multitapEnabled := rfl
@[simp] theorem setPs1_params (r : Ps1) : (setPs1 r s).params = s.params := rfl
@[simp] theorem setPs1_cards (r : Ps1) : (setPs1 r s).cards = s.cards := rfl
@[simp] theorem setPs1_pending (r : Ps1) : (setPs1 r s).pending = s.pending := rfl
@[simp] theorem setPs1_events (r : Ps1) : (setPs1 r s).events = s.events := rfl
@[simp] theorem setPs1_freeCount (r : Ps1) : (setPs1 r s).freeCount = s.freeCount := rfl
@[simp] theorem setPs1_inputs (r : Ps1) : (setPs1 r s).inputs = s.inputs := rfl
@[simp] theorem slotRec_setPs1 (p : Port) (q : Slot) (r : Ps1) : slotRec p q (setPs1 r s) = slotRec p q s := rfl
@[simp] theorem cardMem_setPs1 (p : Port) (q : Slot) (r : Ps1) : cardMem p q (setPs1 r s) = cardMem p q s := rfl
@[simp] theorem cardInput_setPs1 (p : Port) (q : Slot) (r : Ps1) : cardInput p q (setPs1 r s) = cardInput p q s := rfl

/-! ### setMcd -/

@[simp] theorem setMcd_sio0 (t : Vector (Vector SlotRecord 4) 2) : (setMcd t s).blk.sio0 = s.blk.sio0 := rfl
@[simp] theorem setMcd_sio2 (t : Vector (Vector SlotRecord 4) 2) : (setMcd t s).blk.sio2 = s.blk.sio2 := rfl
@[simp] theorem setMcd_fifoIn (t : Vector (Vector SlotRecord 4) 2) : (setMcd t s).blk.fifoIn = s.blk.fifoIn := rfl
@[simp] theorem setMcd_fifoOut (t : Vector (Vector SlotRecord 4) 2) : (setMcd t s).blk.fifoOut = s.blk.fifoOut := rfl
@[simp] theorem setMcd_mcd (t : Vector (Vector SlotRecord 4) 2) : (setMcd t s).blk.mcd = t := rfl
@[simp] theorem setMcd_ps1 (t : Vector (Vector SlotRecord 4) 2) : (setMcd t s).blk.ps1 = s.blk.ps1 := rfl
@[simp] theorem setMcd_pad (t : Vector (Vector SlotRecord 4) 2) : (setMcd t s).inputs.pad = s.inputs.pad := rfl
@[simp] theorem setMcd_card (t : Vector (Vector SlotRecord 4) 2) : (setMcd t s).inputs.card = s.inputs.card := rfl
@[simp] theorem setMcd_multitapEnabled (t : Vector (Vector SlotRecord 4) 2) : (setMcd t s).inputs.multitapEnabled = s.inputs.multitapEnabled := rfl
@[simp] theorem setMcd_params (t : Vector (Vector SlotRecord 4) 2) : (setMcd t s).params = s.params := rfl
@[simp] theorem setMcd_cards (t : Vector (Vector SlotRecord 4) 2) : (setMcd t s).cards = s.cards := rfl
@[simp] theorem setMcd_pending (t : Vector (Vector SlotRecord 4) 2) : (setMcd t s).pending = s.pending := rfl
@[simp] theorem setMcd_events (t : Vector (Vector SlotRecord 4) 2) : (setMcd t s).events = s.events := rfl
@[simp] theorem setMcd_freeCount (t : Vector (Vector SlotRecord 4) 2) : (setMcd t s).freeCount = s.freeCount := rfl
@[simp] theorem setMcd_inputs (t : Vector (Vector SlotRecord 4) 2) : (setMcd t s).inputs = s.inputs := rfl
@[simp] theorem cardMem_setMcd (p : Port) (q : Slot) (t : Vector (Vector SlotRecord 4) 2) : cardMem p q (setMcd t s) = cardMem p q s := rfl
@[simp] theorem cardInput_setMcd (p : Port) (q : Slot) (t : Vector (Vector SlotRecord 4) 2) : cardInput p q (setMcd t s) = cardInput p q s := rfl

/-! ### setCards -/

@[simp] theorem setCards_sio0 (t : Vector (Vector Memory 4) 2) : (setCards t s).blk.sio0 = s.blk.sio0 := rfl
@[simp] theorem setCards_sio2 (t : Vector (Vector Memory 4) 2) : (setCards t s).blk.sio2 = s.blk.sio2 := rfl
@[simp] theorem setCards_fifoIn (t : Vector (Vector Memory 4) 2) : (setCards t s).blk.fifoIn = s.blk.fifoIn := rfl
@[simp] theorem setCards_fifoOut (t : Vector (Vector Memory 4) 2) : (setCards t s).blk.fifoOut = s.blk.fifoOut := rfl
@[simp] theorem setCards_mcd (t : Vector (Vector Memory 4) 2) : (setCards t s).blk.mcd = s.blk.mcd := rfl
@[simp] theorem setCards_ps1 (t : Vector (Vector Memory 4) 2) : (setCards t s).blk.ps1 = s.blk.ps1 := rfl
@[simp] theorem setCards_pad (t : Vector (Vector Memory 4) 2) : (setCards t s).inputs.pad = s.inputs.pad := rfl
@[simp] theorem setCards_card (t : Vector (Vector Memory 4) 2) : (setCards t s).inputs.card = s.inputs.card := rfl
@[simp] theorem setCards_multitapEnabled (t : Vector (Vector Memory 4) 2) : (setCards t s).inputs.multitapEnabled = s.inputs.multitapEnabled := rfl
@[simp] theorem setCards_params (t : Vector (Vector Memory 4) 2) : (setCards t s).params = s.params := rfl
@[simp] theorem setCards_cards (t : Vector (Vector Memory 4) 2) : (setCards t s).cards = t := rfl
@[simp] theorem setCards_pending (t : Vector (Vector Memory 4) 2) : (setCards t s).pending = s.pending := rfl
@[simp] theorem setCards_events (t : Vector (Vector Memory 4) 2) : (setCards t s).events = s.events := rfl
@[simp] theorem setCards_freeCount (t : Vector (Vector Memory 4) 2) : (setCards t s).freeCount = s.freeCount := rfl
@[simp] theorem setCards_inputs (t : Vector (Vector Memory 4) 2) : (setCards t s).inputs = s.inputs := rfl
@[simp] theorem slotRec_setCards (p : Port) (q : Slot) (t : Vector (Vector Memory 4) 2) : slotRec p q (setCards t s) = slotRec p q s := rfl
@[simp] theorem cardInput_setCards (p : Port) (q : Slot) (t : Vector (Vector Memory 4) 2) : cardInput p q (setCards t s) = cardInput p q s := rfl

/-! ### setPadAnswers -/

@[simp] theorem setPadAnswers_sio0 (l : List PadAnswer) : (setPadAnswers l s).blk.sio0 = s.blk.sio0 := rfl
@[simp] theorem setPadAnswers_sio2 (l : List PadAnswer) : (setPadAnswers l s).blk.sio2 = s.blk.sio2 := rfl
@[simp] theorem setPadAnswers_fifoIn (l : List PadAnswer) : (setPadAnswers l s).blk.fifoIn = s.blk.fifoIn := rfl
@[simp] theorem setPadAnswers_fifoOut (l : List PadAnswer) : (setPadAnswers l s).blk.fifoOut = s.blk.fifoOut := rfl
@[simp] theorem setPadAnswers_mcd (l : List PadAnswer) : (setPadAnswers l s).blk.mcd = s.blk.mcd := rfl
@[simp] theorem setPadAnswers_ps1 (l : List PadAnswer) : (setPadAnswers l s).blk.ps1 = s.blk.ps1 := rfl
@[simp] theorem setPadAnswers_pad (l : List PadAnswer) : (setPadAnswers l s).inputs.pad = l := rfl
@[simp] theorem setPadAnswers_card (l : List PadAnswer) : (setPadAnswers l s).inputs.card = s.inputs.card := rfl
@[simp] theorem setPadAnswers_multitapEnabled (l : List PadAnswer) : (setPadAnswers l s).inputs.multitapEnabled = s.inputs.multitapEnabled := rfl
@[simp] theorem setPadAnswers_params (l : List PadAnswer) : (setPadAnswers l s).params = s.params := rfl
@[simp] theorem setPadAnswers_cards (l : List PadAnswer) : (setPadAnswers l s).cards = s.cards := rfl
@[simp] theorem setPadAnswers_pending (l : List PadAnswer) : (setPadAnswers l s).pending = s.pending := rfl
@[simp] theorem setPadAnswers_events (l : List PadAnswer) : (setPadAnswers l s).events = s.events := rfl
@[simp] theorem setPadAnswers_freeCount (l : List PadAnswer) : (setPadAnswers l s).freeCount = s.freeCount := rfl
@[simp] theorem slotRec_setPadAnswers (p : Port) (q : Slot) (l : List PadAnswer) : slotRec p q (setPadAnswers l s) = slotRec p q s := rfl
@[simp] theorem cardMem_setPadAnswers (p : Port) (q : Slot) (l : List PadAnswer) : cardMem p q (setPadAnswers l s) = cardMem p q s := rfl
@[simp] theorem cardInput_setPadAnswers (p : Port) (q : Slot) (l : List PadAnswer) : cardInput p q (setPadAnswers l s) = cardInput p q s := rfl

/-! ### drawFree -/

@[simp] theorem drawFree_sio0 : (drawFree s).blk.sio0 = s.blk.sio0 := rfl
@[simp] theorem drawFree_sio2 : (drawFree s).blk.sio2 = s.blk.sio2 := rfl
@[simp] theorem drawFree_fifoIn : (drawFree s).blk.fifoIn = s.blk.fifoIn := rfl
@[simp] theorem drawFree_fifoOut : (drawFree s).blk.fifoOut = s.blk.fifoOut := rfl
@[simp] theorem drawFree_mcd : (drawFree s).blk.mcd = s.blk.mcd := rfl
@[simp] theorem drawFree_ps1 : (drawFree s).blk.ps1 = s.blk.ps1 := rfl
@[simp] theorem drawFree_pad : (drawFree s).inputs.pad = s.inputs.pad := rfl
@[simp] theorem drawFree_card : (drawFree s).inputs.card = s.inputs.card := rfl
@[simp] theorem drawFree_multitapEnabled : (drawFree s).inputs.multitapEnabled = s.inputs.multitapEnabled := rfl
@[simp] theorem drawFree_params : (drawFree s).params = s.params := rfl
@[simp] theorem drawFree_cards : (drawFree s).cards = s.cards := rfl
@[simp] theorem drawFree_pending : (drawFree s).pending = s.pending := rfl
@[simp] theorem drawFree_events : (drawFree s).events = s.events := rfl
@[simp] theorem drawFree_freeCount : (drawFree s).freeCount = s.freeCount + 1 := rfl
@[simp] theorem drawFree_inputs : (drawFree s).inputs = s.inputs := rfl
@[simp] theorem slotRec_drawFree (p : Port) (q : Slot) : slotRec p q (drawFree s) = slotRec p q s := rfl
@[simp] theorem cardMem_drawFree (p : Port) (q : Slot) : cardMem p q (drawFree s) = cardMem p q s := rfl
@[simp] theorem cardInput_drawFree (p : Port) (q : Slot) : cardInput p q (drawFree s) = cardInput p q s := rfl

/-! ### setRecv1 -/

@[simp] theorem setRecv1_sio0 (v : Word) : (setRecv1 v s).blk.sio0 = s.blk.sio0 := rfl
@[simp] theorem setRecv1_sio2 (v : Word) : (setRecv1 v s).blk.sio2 = { s.blk.sio2 with recv1 := v } := rfl
@[simp] theorem setRecv1_fifoIn (v : Word) : (setRecv1 v s).blk.fifoIn = s.blk.fifoIn := rfl
@[simp] theorem setRecv1_fifoOut (v : Word) : (setRecv1 v s).blk.fifoOut = s.blk.fifoOut := rfl
@[simp] theorem setRecv1_mcd (v : Word) : (setRecv1 v s).blk.mcd = s.blk.mcd := rfl
@[simp] theorem setRecv1_ps1 (v : Word) : (setRecv1 v s).blk.ps1 = s.blk.ps1 := rfl
@[simp] theorem setRecv1_pad (v : Word) : (setRecv1 v s).inputs.pad = s.inputs.pad := rfl
@[simp] theorem setRecv1_card (v : Word) : (setRecv1 v s).inputs.card = s.inputs.card := rfl
@[simp] theorem setRecv1_multitapEnabled (v : Word) : (setRecv1 v s).inputs.multitapEnabled = s.inputs.multitapEnabled := rfl
@[simp] theorem setRecv1_params (v : Word) : (setRecv1 v s).params = s.params := rfl
@[simp] theorem setRecv1_cards (v : Word) : (setRecv1 v s).cards = s.cards := rfl
@[simp] theorem setRecv1_pending (v : Word) : (setRecv1 v s).pending = s.pending := rfl
@[simp] theorem setRecv1_events (v : Word) : (setRecv1 v s).events = s.events := rfl
@[simp] theorem setRecv1_freeCount (v : Word) : (setRecv1 v s).freeCount = s.freeCount := rfl
@[simp] theorem setRecv1_inputs (v : Word) : (setRecv1 v s).inputs = s.inputs := rfl
@[simp] theorem slotRec_setRecv1 (p : Port) (q : Slot) (v : Word) : slotRec p q (setRecv1 v s) = slotRec p q s := rfl
@[simp] theorem cardMem_setRecv1 (p : Port) (q : Slot) (v : Word) : cardMem p q (setRecv1 v s) = cardMem p q s := rfl
@[simp] theorem cardInput_setRecv1 (p : Port) (q : Slot) (v : Word) : cardInput p q (setRecv1 v s) = cardInput p q s := rfl

/-! ### setStat -/

@[simp] theorem setStat_sio0 (v : Word) : (setStat v s).blk.sio0 = { s.blk.sio0 with stat := v } := rfl
@[simp] theorem setStat_sio2 (v : Word) : (setStat v s).blk.sio2 = s.blk.sio2 := rfl
@[simp] theorem setStat_fifoIn (v : Word) : (setStat v s).blk.fifoIn = s.blk.fifoIn := rfl
@[simp] theorem setStat_fifoOut (v : Word) : (setStat v s).blk.fifoOut = s.blk.fifoOut := rfl
@[simp] theorem setStat_mcd (v : Word) : (setStat v s).blk.mcd = s.blk.mcd := rfl
@[simp] theorem setStat_ps1 (v : Word) : (setStat v s).blk.ps1 = s.blk.ps1 := rfl
@[simp] theorem setStat_pad (v : Word) : (setStat v s).inputs.pad = s.inputs.pad := rfl
@[simp] theorem setStat_card (v : Word) : (setStat v s).inputs.card = s.inputs.card := rfl
@[simp] theorem setStat_multitapEnabled (v : Word) : (setStat v s).inputs.multitapEnabled = s.inputs.multitapEnabled := rfl
@[simp] theorem setStat_params (v : Word) : (setStat v s).params = s.params := rfl
@[simp] theorem setStat_cards (v : Word) : (setStat v s).cards = s.cards := rfl
@[simp] theorem setStat_pending (v : Word) : (setStat v s).pending = s.pending := rfl
@[simp] theorem setStat_events (v : Word) : (setStat v s).events = s.events := rfl
@[simp] theorem setStat_freeCount (v : Word) : (setStat v s).freeCount = s.freeCount := rfl
@[simp] theorem setStat_inputs (v : Word) : (setStat v s).inputs = s.inputs := rfl
@[simp] theorem slotRec_setStat (p : Port) (q : Slot) (v : Word) : slotRec p q (setStat v s) = slotRec p q s := rfl
@[simp] theorem cardMem_setStat (p : Port) (q : Slot) (v : Word) : cardMem p q (setStat v s) = cardMem p q s := rfl
@[simp] theorem cardInput_setStat (p : Port) (q : Slot) (v : Word) : cardInput p q (setStat v s) = cardInput p q s := rfl

/-! ### ackIf -/

@[simp] theorem ackIf_sio0 (c : Bool) : (ackIf c s).blk.sio0 = { s.blk.sio0 with stat := if c then setBits s.blk.sio0.stat config.statAck else s.blk.sio0.stat } := rfl
@[simp] theorem ackIf_sio2 (c : Bool) : (ackIf c s).blk.sio2 = s.blk.sio2 := rfl
@[simp] theorem ackIf_fifoIn (c : Bool) : (ackIf c s).blk.fifoIn = s.blk.fifoIn := rfl
@[simp] theorem ackIf_fifoOut (c : Bool) : (ackIf c s).blk.fifoOut = s.blk.fifoOut := rfl
@[simp] theorem ackIf_mcd (c : Bool) : (ackIf c s).blk.mcd = s.blk.mcd := rfl
@[simp] theorem ackIf_ps1 (c : Bool) : (ackIf c s).blk.ps1 = s.blk.ps1 := rfl
@[simp] theorem ackIf_pad (c : Bool) : (ackIf c s).inputs.pad = s.inputs.pad := rfl
@[simp] theorem ackIf_card (c : Bool) : (ackIf c s).inputs.card = s.inputs.card := rfl
@[simp] theorem ackIf_multitapEnabled (c : Bool) : (ackIf c s).inputs.multitapEnabled = s.inputs.multitapEnabled := rfl
@[simp] theorem ackIf_params (c : Bool) : (ackIf c s).params = s.params := rfl
@[simp] theorem ackIf_cards (c : Bool) : (ackIf c s).cards = s.cards := rfl
@[simp] theorem ackIf_pending (c : Bool) : (ackIf c s).pending = s.pending := rfl
@[simp] theorem ackIf_events (c : Bool) : (ackIf c s).events = s.events := rfl
@[simp] theorem ackIf_freeCount (c : Bool) : (ackIf c s).freeCount = s.freeCount := rfl
@[simp] theorem ackIf_inputs (c : Bool) : (ackIf c s).inputs = s.inputs := rfl
@[simp] theorem slotRec_ackIf (p : Port) (q : Slot) (c : Bool) : slotRec p q (ackIf c s) = slotRec p q s := rfl
@[simp] theorem cardMem_ackIf (p : Port) (q : Slot) (c : Bool) : cardMem p q (ackIf c s) = cardMem p q s := rfl
@[simp] theorem cardInput_ackIf (p : Port) (q : Slot) (c : Bool) : cardInput p q (ackIf c s) = cardInput p q s := rfl

/-! ### setSlotRec -/

@[simp] theorem setSlotRec_sio0 (a : Port) (b : Slot) (r : SlotRecord) : (setSlotRec a b r s).blk.sio0 = s.blk.sio0 := rfl
@[simp] theorem setSlotRec_sio2 (a : Port) (b : Slot) (r : SlotRecord) : (setSlotRec a b r s).blk.sio2 = s.blk.sio2 := rfl
@[simp] theorem setSlotRec_fifoIn (a : Port) (b : Slot) (r : SlotRecord) : (setSlotRec a b r s).blk.fifoIn = s.blk.fifoIn := rfl
@[simp] theorem setSlotRec_fifoOut (a : Port) (b : Slot) (r : SlotRecord) : (setSlotRec a b r s).blk.fifoOut = s.blk.fifoOut := rfl
@[simp] theorem setSlotRec_mcd (a : Port) (b : Slot) (r : SlotRecord) : (setSlotRec a b r s).blk.mcd = setEntry s.blk.mcd a b r := rfl
@[simp] theorem setSlotRec_ps1 (a : Port) (b : Slot) (r : SlotRecord) : (setSlotRec a b r s).blk.ps1 = s.blk.ps1 := rfl
@[simp] theorem setSlotRec_pad (a : Port) (b : Slot) (r : SlotRecord) : (setSlotRec a b r s).inputs.pad = s.inputs.pad := rfl
@[simp] theorem setSlotRec_card (a : Port) (b : Slot) (r : SlotRecord) : (setSlotRec a b r s).inputs.card = s.inputs.card := rfl
@[simp] theorem setSlotRec_multitapEnabled (a : Port) (b : Slot) (r : SlotRecord) : (setSlotRec a b r s).inputs.multitapEnabled = s.inputs.multitapEnabled := rfl
@[simp] theorem setSlotRec_params (a : Port) (b : Slot) (r : SlotRecord) : (setSlotRec a b r s).params = s.params := rfl
@[simp] theorem setSlotRec_cards (a : Port) (b : Slot) (r : SlotRecord) : (setSlotRec a b r s).cards = s.cards := rfl
@[simp] theorem setSlotRec_pending (a : Port) (b : Slot) (r : SlotRecord) : (setSlotRec a b r s).pending = s.pending := rfl
@[simp] theorem setSlotRec_events (a : Port) (b : Slot) (r : SlotRecord) : (setSlotRec a b r s).events = s.events := rfl
@[simp] theorem setSlotRec_freeCount (a : Port) (b : Slot) (r : SlotRecord) : (setSlotRec a b r s).freeCount = s.freeCount := rfl
@[simp] theorem setSlotRec_inputs (a : Port) (b : Slot) (r : SlotRecord) : (setSlotRec a b r s).inputs = s.inputs := rfl
@[simp] theorem cardMem_setSlotRec (p : Port) (q : Slot) (a : Port) (b : Slot) (r : SlotRecord) : cardMem p q (setSlotRec a b r s) = cardMem p q s := rfl
@[simp] theorem cardInput_setSlotRec (p : Port) (q : Slot) (a : Port) (b : Slot) (r : SlotRecord) : cardInput p q (setSlotRec a b r s) = cardInput p q s := rfl

/-! ### setCardMem -/

@[simp] theorem setCardMem_sio0 (a : Port) (b : Slot) (m : Memory) : (setCardMem a b m s).blk.sio0 = s.blk.sio0 := rfl
@[simp] theorem setCardMem_sio2 (a : Port) (b : Slot) (m : Memory) : (setCardMem a b m s).blk.sio2 = s.blk.sio2 := rfl
@[simp] theorem setCardMem_fifoIn (a : Port) (b : Slot) (m : Memory) : (setCardMem a b m s).blk.fifoIn = s.blk.fifoIn := rfl
@[simp] theorem setCardMem_fifoOut (a : Port) (b : Slot) (m : Memory) : (setCardMem a b m s).blk.fifoOut = s.blk.fifoOut := rfl
@[simp] theorem setCardMem_mcd (a : Port) (b : Slot) (m : Memory) : (setCardMem a b m s).blk.mcd = s.blk.mcd := rfl
@[simp] theorem setCardMem_ps1 (a : Port) (b : Slot) (m : Memory) : (setCardMem a b m s).blk.ps1 = s.blk.ps1 := rfl
@[simp] theorem setCardMem_pad (a : Port) (b : Slot) (m : Memory) : (setCardMem a b m s).inputs.pad = s.inputs.pad := rfl
@[simp] theorem setCardMem_card (a : Port) (b : Slot) (m : Memory) : (setCardMem a b m s).inputs.card = s.inputs.card := rfl
@[simp] theorem setCardMem_multitapEnabled (a : Port) (b : Slot) (m : Memory) : (setCardMem a b m s).inputs.multitapEnabled = s.inputs.multitapEnabled := rfl
@[simp] theorem setCardMem_params (a : Port) (b : Slot) (m : Memory) : (setCardMem a b m s).params = s.params := rfl
@[simp] theorem setCardMem_cards (a : Port) (b : Slot) (m : Memory) : (setCardMem a b m s).cards = setEntry s.cards a b m := rfl
@[simp] theorem setCardMem_pending (a : Port) (b : Slot) (m : Memory) : (setCardMem a b m s).pending = s.pending := rfl
@[simp] theorem setCardMem_events (a : Port) (b : Slot) (m : Memory) : (setCardMem a b m s).events = s.events := rfl
@[simp] theorem setCardMem_freeCount (a : Port) (b : Slot) (m : Memory) : (setCardMem a b m s).freeCount = s.freeCount := rfl
@[simp] theorem setCardMem_inputs (a : Port) (b : Slot) (m : Memory) : (setCardMem a b m s).inputs = s.inputs := rfl
@[simp] theorem slotRec_setCardMem (p : Port) (q : Slot) (a : Port) (b : Slot) (m : Memory) : slotRec p q (setCardMem a b m s) = slotRec p q s := rfl
@[simp] theorem cardInput_setCardMem (p : Port) (q : Slot) (a : Port) (b : Slot) (m : Memory) : cardInput p q (setCardMem a b m s) = cardInput p q s := rfl

end Sys2Proof.Machine
end

