-- ==== Sys2Proof/Laws/Tables.lean ====
section
/-! SUPPORT. Reading a table by port and slot after one entry was replaced, and what that says of slot records and
card memories. -/

namespace Sys2Proof.Machine

@[simp] theorem entryAt_setEntry_self {α : Type} (t : Vector (Vector α 4) 2) (p : Port) (q : Slot) (x : α) :
    entryAt (setEntry t p q x) p q = x := by
  simp [entryAt, setEntry]

theorem entryAt_setEntry {α : Type} (t : Vector (Vector α 4) 2) (p p' : Port) (q q' : Slot) (x : α) :
    entryAt (setEntry t p q x) p' q' = if p = p' ∧ q = q' then x else entryAt t p' q' := by
  rcases eq_or_ne p p' with rfl | hp
  · rcases eq_or_ne q q' with rfl | hq
    · simp
    · have : q.val ≠ q'.val := fun h => hq (Fin.ext h)
      simp [entryAt, setEntry, this, hq]
  · have : p.val ≠ p'.val := fun h => hp (Fin.ext h)
    simp [entryAt, setEntry, this, hp]

theorem entryAt_setEntry_ne {α : Type} (t : Vector (Vector α 4) 2) (p p' : Port) (q q' : Slot) (x : α)
    (h : (p, q) ≠ (p', q')) : entryAt (setEntry t p q x) p' q' = entryAt t p' q' := by
  rw [entryAt_setEntry, if_neg]
  simpa using h

/-- Two tables that agree at every port and slot are equal. -/
theorem table_ext {α : Type} {t u : Vector (Vector α 4) 2} (h : ∀ p q, entryAt t p q = entryAt u p q) : t = u := by
  ext i hi j hj
  exact h ⟨i, hi⟩ ⟨j, hj⟩

@[simp] theorem setEntry_entryAt {α : Type} (t : Vector (Vector α 4) 2) (p : Port) (q : Slot) :
    setEntry t p q (entryAt t p q) = t :=
  table_ext fun p' q' => by
    rw [entryAt_setEntry]
    split
    · next h => rw [h.1, h.2]
    · rfl

@[simp] theorem setEntry_setEntry {α : Type} (t : Vector (Vector α 4) 2) (p : Port) (q : Slot) (x y : α) :
    setEntry (setEntry t p q x) p q y = setEntry t p q y :=
  table_ext fun p' q' => by
    simp only [entryAt_setEntry]
    split <;> rfl

variable (s : State)

@[simp] theorem slotRec_setSlotRec_self (p : Port) (q : Slot) (r : SlotRecord) :
    slotRec p q (setSlotRec p q r s) = r := by
  simp [slotRec]

theorem slotRec_setSlotRec (p p' : Port) (q q' : Slot) (r : SlotRecord) :
    slotRec p' q' (setSlotRec p q r s) = if p = p' ∧ q = q' then r else slotRec p' q' s := by
  simp [slotRec, entryAt_setEntry]

@[simp] theorem cardMem_setCardMem_self (p : Port) (q : Slot) (m : Memory) :
    cardMem p q (setCardMem p q m s) = m := by
  simp [cardMem]

theorem cardMem_setCardMem (p p' : Port) (q q' : Slot) (m : Memory) :
    cardMem p' q' (setCardMem p q m s) = if p = p' ∧ q = q' then m else cardMem p' q' s := by
  simp [cardMem, entryAt_setEntry]

/-- The list of the eight slots is complete. -/
theorem mem_allSlots (p : Port) (q : Slot) : (p, q) ∈ allSlots := by
  revert p q
  decide

/-- The counters written in a list of slots are those of its slots. -/
theorem slotRec_foldl_setTicks (n : Nat) (l : List (Port × Slot)) (p : Port) (q : Slot) :
    slotRec p q (l.foldl (fun t pq => setTicks pq.1 pq.2 n t) s) =
      if (p, q) ∈ l then { slotRec p q s with autoEjectTicks := n } else slotRec p q s := by
  induction l generalizing s with
  | nil => rfl
  | cons c rest ih =>
    obtain ⟨a, b⟩ := c
    rw [List.foldl_cons, ih, setTicks, slotRec_setSlotRec]
    by_cases h : a = p ∧ b = q
    · obtain ⟨rfl, rfl⟩ := h
      simp
    · have h' : (p, q) ≠ (a, b) := fun e => h ⟨(Prod.mk.inj e).1.symm, (Prod.mk.inj e).2.symm⟩
      simp [h, h']

/-- A bulk write of the counters reaches every slot and changes nothing else of its record. -/
theorem slotRec_setAllTicks (n : Nat) (p : Port) (q : Slot) :
    slotRec p q (setAllTicks n s) = { slotRec p q s with autoEjectTicks := n } := by
  rw [setAllTicks, slotRec_foldl_setTicks, if_pos (mem_allSlots p q)]

/-- Counters are written in the table of slot records alone. -/
theorem foldl_setTicks_eq (n : Nat) (l : List (Port × Slot)) :
    l.foldl (fun t pq => setTicks pq.1 pq.2 n t) s =
      setMcd (l.foldl (fun t pq => setTicks pq.1 pq.2 n t) s).blk.mcd s := by
  induction l generalizing s with
  | nil => rfl
  | cons c rest ih =>
    rw [List.foldl_cons, ih]
    rfl

theorem setAllTicks_eq (n : Nat) : setAllTicks n s = setMcd (setAllTicks n s).blk.mcd s :=
  foldl_setTicks_eq s n allSlots

/-- A bulk write of the counters, without its own text on the right. -/
theorem setAllTicks_frame (n : Nat) : ∃ t, setAllTicks n s = setMcd t s := ⟨_, setAllTicks_eq s n⟩

end Sys2Proof.Machine
end

