-- ==== Sys2Proof/Laws/Memory.lean ====
section
/-! SUPPORT. Card memory: a byte read after a write, every operation keeps the canonical form, and so does the state
after reset. -/

namespace Sys2Proof.Machine

theorem Memory.byteAt_write (m : Memory) (low a a' : Nat) (b : Byte) (h : Memory.risingFrom low m = true) :
    Memory.byteAt (Memory.write m a b) a' = if a = a' then some b else Memory.byteAt m a' := by
  induction m generalizing low with
  | nil => simp [Memory.write, Memory.byteAt]
  | cons c rest ih =>
    obtain ⟨k, x⟩ := c
    simp only [Memory.risingFrom, Bool.and_eq_true, decide_eq_true_eq] at h
    simp only [Memory.write]
    split
    · simp [Memory.byteAt]
    · split
      · next h1 h2 =>
        subst h2
        simp only [Memory.byteAt]
        split <;> rfl
      · next h1 h2 =>
        simp only [Memory.byteAt, ih _ h.2]
        split
        · next h3 => rw [if_neg (by omega)]
        · rfl

theorem Memory.risingFrom_mono (m : Memory) {low low' : Nat} (hl : low' ≤ low) (h : Memory.risingFrom low m = true) :
    Memory.risingFrom low' m = true := by
  cases m with
  | nil => rfl
  | cons c rest =>
    simp only [Memory.risingFrom, Bool.and_eq_true, decide_eq_true_eq] at h ⊢
    exact ⟨⟨by omega, h.1.2⟩, h.2⟩

theorem Memory.risingFrom_write (m : Memory) (low a : Nat) (b : Byte) (hl : low ≤ a) (ha : a < 2 ^ 32)
    (h : Memory.risingFrom low m = true) : Memory.risingFrom low (Memory.write m a b) = true := by
  induction m generalizing low with
  | nil =>
    simp only [Memory.write, Memory.risingFrom, Bool.and_true, Bool.and_eq_true, decide_eq_true_eq]
    exact ⟨hl, ha⟩
  | cons c rest ih =>
    obtain ⟨k, x⟩ := c
    have h' := h
    simp only [Memory.risingFrom, Bool.and_eq_true, decide_eq_true_eq] at h
    simp only [Memory.write]
    split
    · simp only [Memory.risingFrom, Bool.and_eq_true, decide_eq_true_eq]
      exact ⟨⟨hl, ha⟩, ⟨by omega, h.1.2⟩, h.2⟩
    · split
      · next h2 =>
        subst h2
        simp only [Memory.risingFrom, Bool.and_eq_true, decide_eq_true_eq]
        exact h
      · simp only [Memory.risingFrom, Bool.and_eq_true, decide_eq_true_eq]
        exact ⟨h.1, ih _ (by omega) h.2⟩

theorem Memory.risingFrom_filter (m : Memory) (low : Nat) (keep : Host.Cell → Bool)
    (h : Memory.risingFrom low m = true) : Memory.risingFrom low (m.filter keep) = true := by
  induction m generalizing low with
  | nil => rfl
  | cons c rest ih =>
    obtain ⟨k, x⟩ := c
    simp only [Memory.risingFrom, Bool.and_eq_true, decide_eq_true_eq] at h
    rw [List.filter_cons]
    split
    · simp only [Memory.risingFrom, Bool.and_eq_true, decide_eq_true_eq]
      exact ⟨h.1, ih _ h.2⟩
    · exact ih _ (Memory.risingFrom_mono _ (by omega) h.2)

/-- A write of a byte keeps the canonical form. -/
theorem Memory.wf_write (m : Memory) (a : Word) (b : Byte) (h : Memory.wf m = true) :
    Memory.wf (Memory.write m a.toNat b) = true :=
  Memory.risingFrom_write m 0 _ b (Nat.zero_le _) a.isLt h

/-- So does a write of any number of bytes. -/
theorem Memory.wf_writeAll (l : List (Word × Byte)) (m : Memory) (h : Memory.wf m = true) :
    Memory.wf (Memory.writeAll m l) = true := by
  induction l generalizing m with
  | nil => exact h
  | cons c rest ih => exact ih _ (Memory.wf_write m c.1 c.2 h)

/-- So does forgetting bytes. -/
theorem Memory.wf_forget (m : Memory) (drop : Nat → Bool) (h : Memory.wf m = true) :
    Memory.wf (Memory.forget m drop) = true :=
  Memory.risingFrom_filter m 0 _ h

/-- A byte read after a byte written. -/
theorem Memory.byteAt_write_wf (m : Memory) (a a' : Nat) (b : Byte) (h : Memory.wf m = true) :
    Memory.byteAt (Memory.write m a b) a' = if a = a' then some b else Memory.byteAt m a' :=
  Memory.byteAt_write m 0 a a' b h

/-- A byte read after bytes forgotten, in a memory in canonical form. -/
theorem Memory.byteAt_forget (m : Memory) (drop : Nat → Bool) (low a : Nat) (h : Memory.risingFrom low m = true) :
    Memory.byteAt (Memory.forget m drop) a = if drop a then none else Memory.byteAt m a := by
  induction m generalizing low with
  | nil => simp [Memory.forget, Memory.byteAt]
  | cons c rest ih =>
    obtain ⟨k, x⟩ := c
    simp only [Memory.risingFrom, Bool.and_eq_true, decide_eq_true_eq] at h
    have ih := ih _ h.2
    simp only [Memory.forget] at ih ⊢
    rw [List.filter_cons]
    simp only [Memory.byteAt]
    by_cases hk : k = a
    · subst hk
      by_cases hd : drop k
      · simp only [hd, Bool.not_true, if_true, ih, Bool.false_eq_true, if_false]
      · simp [hd, Memory.byteAt]
    · by_cases hd : drop k
      · simp [hd, ih, hk]
      · simp [hd, ih, hk, Memory.byteAt]

/-- A byte at an address no write names. -/
theorem Memory.byteAt_writeAll_of_notMem (l : List (Word × Byte)) (m : Memory) (a : Nat) (h : Memory.wf m = true)
    (ha : ∀ w ∈ l, w.1.toNat ≠ a) : Memory.byteAt (Memory.writeAll m l) a = Memory.byteAt m a := by
  induction l generalizing m with
  | nil => rfl
  | cons c rest ih =>
    obtain ⟨w, b⟩ := c
    simp only [List.mem_cons, forall_eq_or_imp] at ha
    rw [Memory.writeAll, ih _ (Memory.wf_write m w b h) ha.2, Memory.byteAt_write_wf _ _ _ _ h, if_neg ha.1]

theorem Memory.writeAll_append (l l' : List (Word × Byte)) (m : Memory) :
    Memory.writeAll m (l ++ l') = Memory.writeAll (Memory.writeAll m l) l' := by
  induction l generalizing m with
  | nil => rfl
  | cons c rest ih => exact ih _

/-- A byte read after a transfer's bytes were written, at any address. -/
theorem Memory.byteAt_writeAll_transfer (m : Memory) (addr : Word) (bytes : List Byte) (hw : Memory.wf m = true)
    (hn : bytes.length ≤ 2 ^ 32) (a : Word) :
    Memory.byteAt (Memory.writeAll m ((transferAddresses addr bytes.length).zip bytes)) a.toNat =
      if (a - addr).toNat < bytes.length then bytes[(a - addr).toNat]? else Memory.byteAt m a.toNat := by
  induction bytes using List.reverseRecOn with
  | nil => simp [Memory.writeAll]
  | append_singleton bytes b ih =>
    simp only [List.length_append, List.length_singleton] at hn
    have ih := ih (by omega)
    have hz : (transferAddresses addr (bytes ++ [b]).length).zip (bytes ++ [b]) =
        (transferAddresses addr bytes.length).zip bytes ++ [(addr + BitVec.ofNat 32 bytes.length, b)] := by
      simp only [transferAddresses, List.length_append, List.length_singleton, List.range_succ, List.map_append,
        List.map_cons, List.map_nil]
      rw [List.zip_append (by simp)]
      rfl
    rw [hz, Memory.writeAll_append, Memory.writeAll, Memory.writeAll,
      Memory.byteAt_write_wf _ _ _ _ (Memory.wf_writeAll _ _ hw), ih]
    have key : (addr + BitVec.ofNat 32 bytes.length).toNat = a.toNat ↔ (a - addr).toNat = bytes.length := by
      have := a.isLt
      have := addr.isLt
      simp only [BitVec.toNat_add, BitVec.toNat_sub, BitVec.toNat_ofNat]
      omega
    by_cases h : (a - addr).toNat = bytes.length
    · simp [key.mpr h, h]
    · rw [if_neg (fun e => h (key.mp e))]
      simp only [List.length_append, List.length_singleton]
      by_cases h' : (a - addr).toNat < bytes.length
      · rw [if_pos h', if_pos (by omega), List.getElem?_append_left h']
      · rw [if_neg h', if_neg (by omega)]

/-- Every card memory is in canonical form. -/
def State.cardsWf (s : State) : Prop := ∀ p q, Memory.wf (cardMem p q s) = true

theorem reset_cardsWf : State.cardsWf State.reset := by
  unfold State.cardsWf
  decide

/-- Replacing one memory by one in canonical form keeps them all in it. -/
theorem setCardMem_cardsWf (s : State) (p : Port) (q : Slot) (m : Memory) (hm : Memory.wf m = true)
    (h : State.cardsWf s) : State.cardsWf (setCardMem p q m s) := by
  intro p' q'
  rw [cardMem_setCardMem]
  split
  · exact hm
  · exact h p' q'

/-- The storage operations keep the canonical form. -/
theorem cardSave_cardsWf (s : State) (p : Port) (q : Slot) (addr : Word) (bytes : List Byte) (h : State.cardsWf s) :
    State.cardsWf (cardSave p q addr bytes s) := by
  unfold cardSave
  split
  · exact setCardMem_cardsWf s p q _ (Memory.wf_writeAll _ _ (h p q)) h
  · exact h

/-- What a byte reads as after a save: the saved byte where it was stored, else as before. -/
theorem byteAt_cardSave (s : State) (p : Port) (q : Slot) (addr : Word) (bytes : List Byte) (h : State.cardsWf s)
    (hn : bytes.length ≤ 2 ^ 32) (p' : Port) (q' : Slot) (a : Word) :
    Memory.byteAt (cardMem p' q' (cardSave p q addr bytes s)) a.toNat =
      if (cardInput p q s).admitsSave = true ∧ p = p' ∧ q = q' ∧ (a - addr).toNat < bytes.length then
        bytes[(a - addr).toNat]?
      else Memory.byteAt (cardMem p' q' s) a.toNat := by
  unfold cardSave
  rw [cardMem_emit]
  by_cases hs : (cardInput p q s).admitsSave = true
  · rw [if_pos hs, cardMem_setCardMem]
    by_cases hpq : p = p' ∧ q = q'
    · obtain ⟨rfl, rfl⟩ := hpq
      simp [hs, Memory.byteAt_writeAll_transfer _ _ _ (h p q) hn]
    · rw [if_neg hpq, if_neg fun e => hpq ⟨e.2.1, e.2.2.1⟩]
  · rw [if_neg hs, if_neg fun e => hs e.1]

/-- What a byte reads as after an erase: no known value in the block erased, else as before. -/
theorem byteAt_cardErase (s : State) (p : Port) (q : Slot) (addr : Word) (h : State.cardsWf s) (p' : Port) (q' : Slot)
    (a : Nat) :
    Memory.byteAt (cardMem p' q' (cardErase p q addr s)) a =
      if (cardInput p q s).admitsErase = true ∧ p = p' ∧ q = q'
          ∧ inEraseBlock (cardInput p q s).geometry s.params.eccBytes addr a = true then none
      else Memory.byteAt (cardMem p' q' s) a := by
  unfold cardErase
  rw [cardMem_emit]
  by_cases hs : (cardInput p q s).admitsErase = true
  · rw [if_pos hs, cardMem_setCardMem]
    by_cases hpq : p = p' ∧ q = q'
    · obtain ⟨rfl, rfl⟩ := hpq
      simp [hs, Memory.byteAt_forget _ _ 0 a (h p q)]
    · rw [if_neg hpq, if_neg fun e => hpq ⟨e.2.1, e.2.2.1⟩]
  · rw [if_neg hs, if_neg fun e => hs e.1]

theorem cardErase_cardsWf (s : State) (p : Port) (q : Slot) (addr : Word) (h : State.cardsWf s) :
    State.cardsWf (cardErase p q addr s) := by
  unfold cardErase
  split
  · exact setCardMem_cardsWf s p q _ (Memory.wf_forget _ _ (h p q)) h
  · exact h

end Sys2Proof.Machine
end

