-- ==== Sys2Proof/Laws/Ops.lean ====
section
/-! SUPPORT. What each shared operation of Ops.lean can do, once for each: proofs cite these and do not unfold it. -/

namespace Sys2Proof.Machine

variable (s : State)

/-! ### Sequencing and queues -/

@[simp] theorem andThen_next (k : State → Result) : andThen (.next s) k = k s := rfl

theorem andThen_eq_next {r : Result} {k : State → Result} {t : State} (h : andThen r k = .next t) :
    ∃ u, r = .next u ∧ k u = .next t := by
  cases r with
  | next u => exact ⟨u, rfl, h⟩
  | fault f => cases f
  | refused why => cases h

theorem andThen_eq_refused {r : Result} {k : State → Result} {why : Refusal} (h : andThen r k = .refused why) :
    r = .refused why ∨ ∃ u, r = .next u ∧ k u = .refused why := by
  cases r with
  | next u => exact .inr ⟨u, rfl, h⟩
  | fault f => cases f
  | refused why' => exact .inl h

theorem popIn_cons (b : Byte) (bytes : List Byte) (k : Byte → State → Result) (h : s.blk.fifoIn = b :: bytes) :
    popIn s k = k b (setFifoIn bytes s) := by
  simp [popIn, h]

theorem popIn_nil (k : Byte → State → Result) (h : s.blk.fifoIn = []) : popIn s k = .refused .frameTooShort := by
  simp [popIn, h]

theorem popIn_eq_next {k : Byte → State → Result} {t : State} (h : popIn s k = .next t) :
    ∃ b bytes, s.blk.fifoIn = b :: bytes ∧ k b (setFifoIn bytes s) = .next t := by
  unfold popIn at h
  split at h
  · cases h
  · next b bytes hb => exact ⟨b, bytes, hb, h⟩

theorem popIn_eq_refused {k : Byte → State → Result} {why : Refusal} (h : popIn s k = .refused why) :
    why = .frameTooShort ∨ ∃ b bytes, s.blk.fifoIn = b :: bytes ∧ k b (setFifoIn bytes s) = .refused why := by
  unfold popIn at h
  split at h
  · exact .inl (by cases h; rfl)
  · next b bytes hb => exact .inr ⟨b, bytes, hb, h⟩

theorem popInN_of_le (n : Nat) (k : List Byte → State → Result) (h : n ≤ s.blk.fifoIn.length) :
    popInN n s k = k (s.blk.fifoIn.take n) (setFifoIn (s.blk.fifoIn.drop n) s) := by
  simp [popInN, Nat.not_lt.mpr h]

theorem popInN_eq_next {n : Nat} {k : List Byte → State → Result} {t : State} (h : popInN n s k = .next t) :
    n ≤ s.blk.fifoIn.length ∧ k (s.blk.fifoIn.take n) (setFifoIn (s.blk.fifoIn.drop n) s) = .next t := by
  unfold popInN at h
  split at h
  · cases h
  · next hn => exact ⟨Nat.not_lt.mp hn, h⟩

theorem popInN_eq_refused {n : Nat} {k : List Byte → State → Result} {why : Refusal} (h : popInN n s k = .refused why) :
    why = .frameTooShort ∨ k (s.blk.fifoIn.take n) (setFifoIn (s.blk.fifoIn.drop n) s) = .refused why := by
  unfold popInN at h
  split at h
  · exact .inl (by cases h; rfl)
  · exact .inr h

@[simp] theorem pushOut_pushOut (a b : List Byte) : pushOut b (pushOut a s) = pushOut (a ++ b) s := by
  simp [pushOut]

@[simp] theorem pushOut_nil : pushOut [] s = s := by
  simp [pushOut]

/-! ### Replies -/

/-- The fill is pushed and nothing else happens. -/
theorem padReplyTo_eq (n : Nat) (fill : Byte) (base : Nat) :
    padReplyTo n fill base s = pushOut (List.replicate (n - (s.blk.fifoOut.length - base)) fill) s := rfl

/-- The 2b terminator: zeros, 0x2B, the terminator byte. -/
theorem twoBTerminator_eq (total base : Nat) (term : Byte) :
    twoBTerminator total base term s =
      pushOut (List.replicate (total - 2 - (s.blk.fifoOut.length - base)) 0 ++ [0x2B, term]) s := by
  simp [twoBTerminator, padReplyTo, config_deadAir, config_reply2B]

/-! ### Byte order -/

/-- Four bytes, least significant first, as a number. -/
theorem wordOfBytes_eq (a0 a1 a2 a3 : Byte) :
    wordOfBytes a0 a1 a2 a3 =
      BitVec.ofNat 32 (a0.toNat + 256 * a1.toNat + 65536 * a2.toNat + 16777216 * a3.toNat) := by
  have h0 := a0.isLt
  have h1 := a1.isLt
  have h2 := a2.isLt
  have h3 := a3.isLt
  apply BitVec.eq_of_toNat_eq
  have e1 : a0.toNat ||| a1.toNat <<< 8 = a1.toNat <<< 8 + a0.toNat := by
    rw [Nat.or_comm, Nat.shiftLeft_add_eq_or_of_lt h0]
  have l1 : a1.toNat <<< 8 + a0.toNat < 2 ^ 16 := by
    rw [Nat.shiftLeft_eq]
    omega
  have e2 : (a1.toNat <<< 8 + a0.toNat) ||| a2.toNat <<< 16 = a2.toNat <<< 16 + (a1.toNat <<< 8 + a0.toNat) := by
    rw [Nat.or_comm, Nat.shiftLeft_add_eq_or_of_lt l1]
  have l2 : a2.toNat <<< 16 + (a1.toNat <<< 8 + a0.toNat) < 2 ^ 24 := by
    simp only [Nat.shiftLeft_eq]
    omega
  have e3 : (a2.toNat <<< 16 + (a1.toNat <<< 8 + a0.toNat)) ||| a3.toNat <<< 24 =
      a3.toNat <<< 24 + (a2.toNat <<< 16 + (a1.toNat <<< 8 + a0.toNat)) := by
    rw [Nat.or_comm, Nat.shiftLeft_add_eq_or_of_lt l2]
  have m1 : a1.toNat <<< 8 < 2 ^ 32 := by rw [Nat.shiftLeft_eq]; omega
  have m2 : a2.toNat <<< 16 < 2 ^ 32 := by rw [Nat.shiftLeft_eq]; omega
  have m3 : a3.toNat <<< 24 < 2 ^ 32 := by rw [Nat.shiftLeft_eq]; omega
  simp only [wordOfBytes, BitVec.toNat_or, BitVec.toNat_shiftLeft, BitVec.toNat_setWidth, BitVec.toNat_ofNat,
    Nat.mod_eq_of_lt (show a0.toNat < 2 ^ 32 by omega), Nat.mod_eq_of_lt (show a1.toNat < 2 ^ 32 by omega),
    Nat.mod_eq_of_lt (show a2.toNat < 2 ^ 32 by omega), Nat.mod_eq_of_lt (show a3.toNat < 2 ^ 32 by omega),
    Nat.mod_eq_of_lt m1, Nat.mod_eq_of_lt m2, Nat.mod_eq_of_lt m3, e1, e2, e3]
  simp only [Nat.shiftLeft_eq]
  omega

/-! ### Storage -/

/-- A save is an event, and an admitted one writes the bytes; nothing else changes. -/
theorem cardSave_eq (p : Port) (q : Slot) (addr : Word) (bytes : List Byte) :
    cardSave p q addr bytes s =
      { s with
        cards :=
          if (cardInput p q s).admitsSave then
            setEntry s.cards p q
              (Memory.writeAll (cardMem p q s) ((transferAddresses addr bytes.length).zip bytes))
          else s.cards
        events := s.events ++ [.cardSave p q addr bytes] } := by
  unfold cardSave
  split <;> rfl

/-- An erase is an event, and an admitted one forgets the bytes of its block; nothing else changes. -/
theorem cardErase_eq (p : Port) (q : Slot) (addr : Word) :
    cardErase p q addr s =
      { s with
        cards :=
          if (cardInput p q s).admitsErase then
            setEntry s.cards p q
              (Memory.forget (cardMem p q s)
                (inEraseBlock (cardInput p q s).geometry s.params.eccBytes addr))
          else s.cards
        events := s.events ++ [.cardErase p q addr] } := by
  unfold cardErase
  split <;> rfl

/-- A read is an event and draws a free value; nothing else changes. -/
theorem cardReadCall_eq (p : Port) (q : Slot) (addr : Word) (n : Nat) :
    cardReadCall p q addr n s =
      { s with events := s.events ++ [.cardRead p q addr n], freeCount := s.freeCount + 1 } := rfl

/-- A save, without its own text on the right. -/
theorem cardSave_frame (p : Port) (q : Slot) (addr : Word) (bytes : List Byte) :
    ∃ t, cardSave p q addr bytes s = emit (.cardSave p q addr bytes) (setCards t s) := by
  unfold cardSave
  split
  · exact ⟨_, rfl⟩
  · exact ⟨s.cards, rfl⟩

/-- An erase, without its own text on the right. -/
theorem cardErase_frame (p : Port) (q : Slot) (addr : Word) :
    ∃ t, cardErase p q addr s = emit (.cardErase p q addr) (setCards t s) := by
  unfold cardErase
  split
  · exact ⟨_, rfl⟩
  · exact ⟨s.cards, rfl⟩

@[simp] theorem length_transferAddresses (addr : Word) (n : Nat) : (transferAddresses addr n).length = n := by
  simp [transferAddresses]

@[simp] theorem length_cardReadBytes (p : Port) (q : Slot) (addr : Word) (n : Nat) :
    (cardReadBytes p q addr n s).length = n := by
  unfold cardReadBytes
  split <;> simp

/-! ### The pad -/

/-- Giving an answer takes it off the list, or draws a free value where none is listed; nothing else changes. -/
theorem padAnswered_eq :
    padAnswered s =
      { s with
        inputs.pad := s.inputs.pad.tail
        freeCount := s.freeCount + (1 - s.inputs.pad.length) } := by
  unfold padAnswered
  split
  · next a rest h => simp [setPadAnswers, h]
  · next h =>
    simp only [drawFree, h, List.tail_nil, List.length_nil]
    rw [← h]

theorem padStartCall_eq (p : Port) (q : Slot) :
    padStartCall p q s =
      { s with
        inputs.pad := s.inputs.pad.tail
        freeCount := s.freeCount + (1 - s.inputs.pad.length)
        events := s.events ++ [.padStart p q] } := by
  rw [padStartCall, padAnswered_eq]
  rfl

theorem padPollCall_eq (b : Byte) :
    padPollCall b s =
      { s with
        inputs.pad := s.inputs.pad.tail
        freeCount := s.freeCount + (1 - s.inputs.pad.length)
        events := s.events ++ [.padPoll b] } := by
  rw [padPollCall, padAnswered_eq]
  rfl

/-! ### Resets -/

/-- The SIO0 soft reset writes the stage, the mode, the command and the PS1 record, and nothing else (R311). -/
theorem sio0SoftReset_eq :
    sio0SoftReset s =
      { s with
        blk.sio0 := { s.blk.sio0 with stage := .idle, sioMode := .notSet, command := 0 }
        blk.ps1 := Ps1.start } := rfl

/-- The SIO2 soft reset writes the cursor, its flags, the two lengths and the queues, and nothing else (R312). -/
theorem sio2SoftReset_eq :
    sio2SoftReset s =
      { s with
        blk.sio2 :=
          { s.blk.sio2 with
            send3Read := false
            send3Position := 0
            send3Complete := false
            commandLength := 0
            dmaBlockSize := 0 }
        blk.fifoIn := []
        blk.fifoOut := if s.params.softresetClearsFifoOut then [] else s.blk.fifoOut } := rfl

end Sys2Proof.Machine
end

