-- ==== Sys2Proof/Laws/Sequencer.lean ====
section
/-! SUPPORT. What the sending of a whole frame does, said once: the handler of its mode byte runs on the frame's other
bytes, and then fifoOut is filled to the DMA block. A proof about a frame begins with `exec_frame`. -/

namespace Sys2Proof.Machine

/-- The state a frame's handler runs in: the entry decoded, the cursor advanced, the mode byte popped. -/
def frameStart (rest : List Byte) (s : State) : State :=
  { s with
    blk.sio2 :=
      { decodedEntry s.blk.sio2 with send3Read := false, send3Position := s.blk.sio2.send3Position + 1 }
    blk.fifoIn := rest }

@[simp] theorem andThen_pure (r : Result) : (andThen r fun s => .next s) = r := by
  cases r <;> rfl

@[simp] theorem sendFrame_nil (s : State) : sendFrame [] s = .next s := rfl

@[simp] theorem decodedEntry_send3Position (r : Sio2) : (decodedEntry r).send3Position = r.send3Position := by
  unfold decodedEntry
  split <;> rfl

@[simp] theorem decodedEntry_send3Read (r : Sio2) : (decodedEntry r).send3Read = true := by
  unfold decodedEntry
  split <;> rfl

@[simp] theorem decodedEntry_dmaBlockSize (r : Sio2) : (decodedEntry r).dmaBlockSize = r.dmaBlockSize := by
  unfold decodedEntry
  split <;> rfl

@[simp] theorem decodedEntry_slot (r : Sio2) : (decodedEntry r).slot = r.slot := by
  unfold decodedEntry
  split <;> rfl

@[simp] theorem decodedEntry_recv1 (r : Sio2) : (decodedEntry r).recv1 = r.recv1 := by
  unfold decodedEntry
  split <;> rfl

/-- Bytes that make up the rest of a frame being accumulated. -/
theorem sendFrame_accumulate (rest : List Byte) (s : State) (hr : s.blk.sio2.send3Read = true)
    (hc : s.blk.sio2.send3Complete = false) (hne : rest ≠ [])
    (ht : frameTarget s.blk.sio2 = s.blk.fifoIn.length + rest.length) :
    sendFrame rest s = sio2Complete (setFifoIn (s.blk.fifoIn ++ rest) s) := by
  induction rest generalizing s with
  | nil => exact absurd rfl hne
  | cons b rest ih =>
    have hw : sio2Write b s =
        if (s.blk.fifoIn ++ [b]).length = frameTarget s.blk.sio2 then sio2Complete (setFifoIn (s.blk.fifoIn ++ [b]) s)
        else .next (setFifoIn (s.blk.fifoIn ++ [b]) s) := by
      simp [sio2Write, hr, hc]
    rw [sendFrame, hw]
    cases rest with
    | nil =>
      rw [if_pos (by simp [ht])]
      exact andThen_pure _
    | cons c rest =>
      rw [if_neg (by simp [ht]), andThen_next, ih _ (by simpa using hr) (by simpa using hc) (by simp)
        (by simp [ht]; omega)]
      simp [setFifoIn]

/-- What `frameReady` says. -/
theorem frameReady_iff (n : Nat) (s : State) : frameReady n s = true ↔
    s.blk.sio2.send3Read = false ∧ s.blk.sio2.send3Complete = false ∧ s.blk.sio2.send3Position < 16 ∧
      (decodedEntry s.blk.sio2).commandLength ≠ 0 ∧ frameTarget (decodedEntry s.blk.sio2) = n := by
  simp [frameReady, and_assoc]

theorem decodedEntry_send3Complete (r : Sio2) (hp : r.send3Position < 16)
    (hl : (decodedEntry r).commandLength ≠ 0) : (decodedEntry r).send3Complete = r.send3Complete := by
  simp only [decodedEntry, hp, dite_true] at hl ⊢
  simp [hl]

/-- A whole frame: its handler, then the DMA fill. -/
theorem sendFrame_whole (m : Byte) (rest : List Byte) (s : State) (h : frameReady (rest.length + 1) s = true) :
    sendFrame (m :: rest) s =
      andThen (sio2Dispatch m (replyBase s) (frameStart rest s)) fun t => .next (sio2DmaPad t) := by
  obtain ⟨hr, hc, hp, hl, ht⟩ := (frameReady_iff _ s).mp h
  have hc' : (decodedEntry s.blk.sio2).send3Complete = false := by rw [decodedEntry_send3Complete _ hp hl, hc]
  have key : sendFrame (m :: rest) s = sio2Complete (setFifoIn (m :: rest) (sio2DecodeEntry s)) := by
    have h1 : sendFrame (m :: rest) s = sendFrame (m :: rest) (sio2DecodeEntry s) := by
      rw [sendFrame, sendFrame]
      congr 1
      simp [sio2Write, hr, sio2DecodeEntry]
    rw [h1, sendFrame_accumulate _ _ (by simp [sio2DecodeEntry]) (by simpa [sio2DecodeEntry] using hc') (by simp)
      (by simpa [sio2DecodeEntry] using ht)]
    simp [sio2DecodeEntry]
  rw [key, sio2Complete, popIn_cons _ m rest _ (by simp [sio2Advance])]
  simp only [sio2Advance, sio2DecodeEntry, setFifoIn_sio2, setSio2_sio2, decodedEntry_send3Position]
  rfl

/-- An instruction that is a frame sends that frame. -/
theorem exec_frame (i : Instr) (bytes : List Byte) (s : State) (h : encode i = .frame bytes) :
    exec i s = sendFrame bytes s := by
  cases i <;> simp only [encode, encodeRead, encodeWrite, reduceCtorEq, Packet.frame.injEq] at h <;>
    subst h <;> rfl

/-- The end of a frame: what its handler left, with the DMA fill, is `frameDone`. -/
theorem sio2DmaPad_frame (s : State) (rest : List Byte) (v : Word) (reply leftover : List Byte) :
    sio2DmaPad (pushOut reply (setFifoIn leftover (setRecv1 v (frameStart rest s)))) =
      frameDone s v reply leftover := by
  unfold sio2DmaPad frameDone dmaFill
  simp only [pushOut_sio2, setFifoIn_sio2, setRecv1_sio2, frameStart, decodedEntry_dmaBlockSize, pushOut_fifoOut,
    setFifoIn_fifoOut, setRecv1_fifoOut, List.length_append]
  split
  · rfl
  · simp [pushOut, setFifoIn, setRecv1, setSio2]

end Sys2Proof.Machine
end

