-- ==== Sys2Proof/Laws/Step.lean ====
section
/-! SUPPORT. What a step can do, said once, and the transactions. -/

namespace Sys2Proof.Machine

/-- A step that answers a next state found no operation pending, or executed the instruction the next one's packet
decodes to. -/
theorem step_cases {s t : State} (h : step s = .next t) :
    (s.pending = [] ∧ t = s) ∨
      ∃ op rest i, s.pending = op :: rest ∧ fetch op.packet (takeOp op rest s) = .ok i ∧
        exec i (takeOp op rest s) = .next t := by
  unfold step at h
  split at h
  · next hp => exact .inl ⟨hp, by cases h; rfl⟩
  · next op rest hp =>
    split at h
    · next i hf => exact .inr ⟨op, rest, i, hp, hf, h⟩
    · cases h

/-- Exchanged cards are forgotten and nothing else changes. -/
theorem foldl_forget_eq (l : List (Port × Slot)) (s : State) :
    l.foldl (fun t pq => if (cardInput pq.1 pq.2 t).exchanged then setCardMem pq.1 pq.2 [] t else t) s =
      setCards (l.foldl (fun t pq => if (cardInput pq.1 pq.2 t).exchanged then setCardMem pq.1 pq.2 [] t else t) s).cards
        s := by
  induction l generalizing s with
  | nil => rfl
  | cons c rest ih =>
    rw [List.foldl_cons, ih]
    split <;> rfl

theorem forgetExchanged_eq (s : State) : forgetExchanged s = setCards (forgetExchanged s).cards s := by
  rw [forgetExchanged]
  exact foldl_forget_eq allSlots s

/-- Taking an operation touches the stream, the inputs and the memories of exchanged cards alone. -/
theorem takeOp_eq (op : HostOp) (rest : List HostOp) (s : State) :
    takeOp op rest s =
      setCards (takeOp op rest s).cards { s with pending := rest, inputs := op.inputs } := by
  rw [takeOp, latchInputs]
  exact forgetExchanged_eq _

/-- Forgetting in a list of slots. -/
theorem cardMem_foldl_forget (l : List (Port × Slot)) (s : State) (p : Port) (q : Slot) :
    cardMem p q
        (l.foldl (fun t pq => if (cardInput pq.1 pq.2 t).exchanged then setCardMem pq.1 pq.2 [] t else t) s) =
      if (p, q) ∈ l ∧ (cardInput p q s).exchanged = true then [] else cardMem p q s := by
  induction l generalizing s with
  | nil => simp
  | cons c rest ih =>
    obtain ⟨a, b⟩ := c
    rw [List.foldl_cons, ih]
    by_cases hab : a = p ∧ b = q
    · obtain ⟨rfl, rfl⟩ := hab
      by_cases hx : (cardInput a b s).exchanged = true <;> simp [hx]
    · have h' : (p, q) ≠ (a, b) := fun e => hab ⟨(Prod.mk.inj e).1.symm, (Prod.mk.inj e).2.symm⟩
      by_cases hx : (cardInput a b s).exchanged = true <;> simp [hx, cardMem_setCardMem, hab, h']

/-- What is known of a slot's card once an operation is taken. -/
theorem cardMem_takeOp (op : HostOp) (rest : List HostOp) (s : State) (p : Port) (q : Slot) :
    cardMem p q (takeOp op rest s) =
      if (entryAt op.inputs.card p q).exchanged = true then [] else cardMem p q s := by
  have := cardMem_foldl_forget allSlots { s with pending := rest, inputs := op.inputs } p q
  simpa [takeOp, latchInputs, forgetExchanged, mem_allSlots, cardInput, cardMem] using this

/-- An instruction that is a transaction sends that transaction. -/
theorem exec_transaction (i : Instr) (bytes : List Byte) (s : State) (h : encode i = .transaction bytes) :
    exec i s = sendTransaction bytes s := by
  cases i <;> simp only [encode, encodeRead, encodeWrite, reduceCtorEq, Packet.transaction.injEq] at h <;>
    subst h <;> rfl

/-- One write of TX_DATA that is not held back: the step's reply is stored and the interrupt requested. -/
theorem txWrite_step (b : Byte) (s : State) (hg : txGated s = false) :
    txWrite b s = .next (txReplied (sio0Step b (txStored b s)).1 (sio0Step b (txStored b s)).2) := by
  simp [txWrite, hg]

end Sys2Proof.Machine
end

