-- ==== Sys2Proof/Laws/Safety.lean ====
section
/-! SUPPORT. What the predicates of Safety.lean say, as propositions, and what a save leaves in its terms. -/

namespace Sys2Proof.Machine

variable (s : State)

theorem Block.statReservedClear_iff (b : Block) :
    b.statReservedClear = true ↔ b.sio0.stat &&& ~~~Codes.statNamed = 0 := by
  simp [Block.statReservedClear]

theorem State.wf_iff :
    State.wf s = true ↔
      s.blk.sio0.stat &&& ~~~Codes.statNamed = 0 ∧ s.blk.sio2.commandLength ≤ 511 ∧ State.cardsWf s
        ∧ 0 < s.params.autoEjectTicks := by
  simp only [State.wf, Block.statReservedClear, Block.lengthInRange, Bool.and_eq_true, decide_eq_true_eq, beq_iff_eq,
    List.all_eq_true, and_assoc, State.cardsWf]
  constructor
  · rintro ⟨h1, h2, h3, h4⟩
    exact ⟨h1, h2, fun p q => h3 (p, q) (mem_allSlots p q), h4⟩
  · rintro ⟨h1, h2, h3, h4⟩
    exact ⟨h1, h2, fun x _ => h3 x.1 x.2, h4⟩

theorem Block.wellTyped_iff (b : Block) :
    b.wellTyped = true ↔
      b.sio0.stat &&& ~~~Codes.statNamed = 0 ∧ b.sio2.send3Position ≤ 16 ∧ b.sio2.commandLength ≤ 511 := by
  simp [Block.wellTyped, Block.statReservedClear, Block.positionInRange, Block.lengthInRange, and_assoc]

theorem State.sound_iff :
    State.sound s = true ↔
      Block.sio0Coherent s.blk = true ∧ Block.sio0BitsClear s.blk = true ∧ Block.recvSound s.blk = true
        ∧ Block.cursorSound s.blk = true ∧ 2 ≤ s.blk.ps1.cursor := by
  simp [State.sound, and_assoc]

theorem sio0Idle_iff : sio0Idle s = true ↔ txGated s = false ∧ s.blk.sio0.stage = .idle := by
  simp [sio0Idle]

theorem sio0Expects_iff (mode : SioMode) :
    sio0Expects mode s = true ↔
      txGated s = false ∧ s.blk.sio0.stage = .waitingCommand ∧ s.blk.sio0.sioMode = mode := by
  simp [sio0Expects, and_assoc]

theorem ps1At_iff (command : Byte) (position : Nat) :
    ps1At command position s = true ↔
      txGated s = false ∧ s.blk.sio0.stage = .working ∧ s.blk.sio0.sioMode = .memcard ∧ s.blk.sio0.command = command
        ∧ s.blk.ps1.cursor = position := by
  simp [ps1At, and_assoc]

theorem cardAnswers_iff :
    cardAnswers s = true ↔ (nextSlot s).autoEjectTicks = 0 ∧ (nextCard s).present = true := by
  simp [cardAnswers]

/-- What a save leaves. -/
theorem cardSave_saved (p : Port) (q : Slot) (addr : Word) (bytes : List Byte) (h : State.cardsWf s)
    (hn : bytes.length ≤ 2 ^ 32) : Saved p q addr bytes s (cardSave p q addr bytes s) := by
  unfold Saved
  split
  · next ha =>
    intro p' q' a
    rw [byteAt_cardSave s p q addr bytes h hn]
    simp only [ha, true_and]
    simp only [eq_comm]
  · next ha =>
    rw [cardSave_eq]
    simp [ha]

/-- Only inputs and card memory enter `Saved`. -/
theorem Saved.congr {p : Port} {q : Slot} {addr : Word} {bytes : List Byte} {s t s' t' : State}
    (h : Saved p q addr bytes s t) (hi : s'.inputs.card = s.inputs.card) (hc : s'.cards = s.cards)
    (ht : t'.cards = t.cards) : Saved p q addr bytes s' t' := by
  unfold Saved Stored cardMem cardInput at *
  rw [hi, hc, ht]
  exact h

end Sys2Proof.Machine
end

