-- ==== Sys2Proof/Laws/Sio0.lean ====
section
/-! SUPPORT. One TX_DATA write, said once for each stage, and its end in the terms of Safety.lean. -/

namespace Sys2Proof.Machine

variable (b : Byte) (s : State)

theorem statAfterTx_eq (x : Word) : statAfterTx x = x ||| 0x00000007 := by
  simp [statAfterTx, setBits, config_statTxReady, config_statTxEmpty, config_statRxFifoNotEmpty]

/-! ### What a write does in each stage -/

theorem txWrite_gated (hg : txGated s = true) : txWrite b s = .next s := by
  simp [txWrite, hg]

theorem txWrite_idle (hg : txGated s = false) (h : s.blk.sio0.stage = .idle) :
    txWrite b s = .next (txReplied (s0Idle b (txStored b s)).1 (s0Idle b (txStored b s)).2) := by
  rw [txWrite_step b s hg]
  have : (txStored b s).blk.sio0.stage = .idle := h
  simp only [sio0Step, this]

theorem txWrite_padCommand (hg : txGated s = false) (h : s.blk.sio0.stage = .waitingCommand)
    (hm : s.blk.sio0.sioMode = .pad) :
    txWrite b s = .next (txReplied (s0PadCommand b (txStored b s)).1 (s0PadCommand b (txStored b s)).2) := by
  rw [txWrite_step b s hg]
  have h1 : (txStored b s).blk.sio0.stage = .waitingCommand := h
  have h2 : (txStored b s).blk.sio0.sioMode = .pad := hm
  simp only [sio0Step, h1, h2]

theorem txWrite_memcardCommand (hg : txGated s = false) (h : s.blk.sio0.stage = .waitingCommand)
    (hm : s.blk.sio0.sioMode = .memcard) :
    txWrite b s = .next (txReplied (s0MemcardCommand b (txStored b s)).1 (s0MemcardCommand b (txStored b s)).2) := by
  rw [txWrite_step b s hg]
  have h1 : (txStored b s).blk.sio0.stage = .waitingCommand := h
  have h2 : (txStored b s).blk.sio0.sioMode = .memcard := hm
  simp only [sio0Step, h1, h2]

theorem txWrite_padBody (hg : txGated s = false) (h : s.blk.sio0.stage = .working) (hm : s.blk.sio0.sioMode = .pad) :
    txWrite b s = .next (txReplied (s0PadPoll b (txStored b s)).1 (s0PadPoll b (txStored b s)).2) := by
  rw [txWrite_step b s hg]
  have h1 : (txStored b s).blk.sio0.stage = .working := h
  have h2 : (txStored b s).blk.sio0.sioMode = .pad := hm
  simp only [sio0Step, h1, h2]

theorem txWrite_memcardBody (hg : txGated s = false) (h : s.blk.sio0.stage = .working)
    (hm : s.blk.sio0.sioMode = .memcard) (r : Byte) (t : State) (hb : s0MemcardBody b (txStored b s) = (r, t)) :
    txWrite b s = .next (txReplied r t) := by
  rw [txWrite_step b s hg]
  have h1 : (txStored b s).blk.sio0.stage = .working := h
  have h2 : (txStored b s).blk.sio0.sioMode = .memcard := hm
  simp only [sio0Step, h1, h2, hb]

theorem txWrite_noMode (hg : txGated s = false) (h : s.blk.sio0.stage = .waitingCommand)
    (hm : s.blk.sio0.sioMode = .notSet) :
    txWrite b s = .next (txReplied (s0Unrecognised (txStored b s)).1 (s0Unrecognised (txStored b s)).2) := by
  rw [txWrite_step b s hg]
  have h1 : (txStored b s).blk.sio0.stage = .waitingCommand := h
  have h2 : (txStored b s).blk.sio0.sioMode = .notSet := hm
  simp only [sio0Step, h1, h2]

/-- The step in WORKING where neither the pad nor a handler of R140 is addressed. -/
theorem sio0Step_noHandler (h : s.blk.sio0.stage = .working)
    (hm : s.blk.sio0.sioMode = .notSet ∨
      s.blk.sio0.sioMode = .memcard ∧ s.blk.sio0.command ∉ ([0x52, 0x53, 0x57] : List Byte)) :
    sio0Step b s = s0Desync s := by
  rcases hm with hm | ⟨hm, hc⟩ <;> simp only [sio0Step, h, hm]
  simp only [List.mem_cons, List.not_mem_nil, or_false, not_or] at hc
  rcases ps1CommandOf_cases s.blk.sio0.command with ⟨hb, hv⟩ | ⟨hb, hv⟩ | ⟨hb, hv⟩ | ⟨hb, _⟩ | ⟨hb, _⟩
  · exact absurd hv hc.1
  · exact absurd hv hc.2.1
  · exact absurd hv hc.2.2
  · simp only [s0MemcardBody, hb]
  · simp only [s0MemcardBody, hb]

/-- The dead byte is one of the two. -/
theorem s0Desync_reply : (s0Desync s).1 = 0x00 ∨ (s0Desync s).1 = 0xFF := by
  simp only [s0Desync]
  split
  · exact .inr rfl
  · exact .inl rfl

/-! ### The end of a write -/

/-- The byte stored, the acknowledge, the stage, the reply: `txDone`. -/
theorem txReplied_setStage (reply : Byte) (ack : Bool) (stage : Stage) (mode : SioMode) :
    txReplied reply (setStage stage mode (ackIf ack (txStored b s))) = txDone s b reply ack stage mode := by
  cases ack <;>
    simp [txReplied, raiseIrq, emit, setStage, ackIf, setStat, setSio0, txStored, txDone, statAfterTx_eq, setBits,
      config_statAck]

/-- The same where the stage is left as it is. -/
theorem txReplied_ackIf (reply : Byte) (ack : Bool) :
    txReplied reply (ackIf ack (txStored b s)) = txDone s b reply ack s.blk.sio0.stage s.blk.sio0.sioMode := by
  cases ack <;>
    simp [txReplied, raiseIrq, emit, ackIf, setStat, setSio0, txStored, txDone, statAfterTx_eq, setBits, config_statAck]

/-- The same without an acknowledge. -/
theorem txReplied_txStored (reply : Byte) :
    txReplied reply (txStored b s) = txDone s b reply false s.blk.sio0.stage s.blk.sio0.sioMode := by
  simp [txReplied, raiseIrq, emit, setSio0, txStored, txDone, statAfterTx_eq]

/-! ### The pad's answers -/

theorem padAnswers_padAnswer : PadAnswers s [padAnswer s] := by
  intro k a hk ha
  obtain rfl : k = 0 := by simpa using hk
  unfold padAnswer
  split
  · next x rest h => simpa [h] using ha
  · next h => simp [h] at ha

theorem padStartCall_padCalled (p : Port) (q : Slot) : padStartCall p q s = padCalled (.padStart p q) s :=
  padStartCall_eq s p q

theorem padPollCall_padCalled : padPollCall b s = padCalled (.padPoll b) s :=
  padPollCall_eq s b

end Sys2Proof.Machine
end

