-- ==== Sys2Proof/Laws/Handlers.lean ====
section
/-! SUPPORT. What any handler can do, said once: `HandlerRel` relates the state a handler ran in to the one it left,
`Handles` says so of a result that may also be the refusal of a short frame. A claim about every instruction goes
through these and does not unfold the handlers. -/

namespace Sys2Proof.Machine

/-- What a handler of a frame, or a handler of the nested PS1 protocol on either path, can change: STAT by setting ACK,
RECV1 to one of its two values, the queues, slot records, the PS1 record, card memory, pad answers, the free-value
counter, and events that are no interrupt request. -/
structure HandlerRel (s t : State) : Prop where
  sio0 : t.blk.sio0 = { s.blk.sio0 with stat := t.blk.sio0.stat }
  stat : t.blk.sio0.stat = s.blk.sio0.stat ∨ t.blk.sio0.stat = s.blk.sio0.stat ||| config.statAck
  sio2 : t.blk.sio2 = { s.blk.sio2 with recv1 := t.blk.sio2.recv1 }
  recv1 : t.blk.sio2.recv1 = s.blk.sio2.recv1 ∨ t.blk.sio2.recv1 = config.recv1Connected
    ∨ t.blk.sio2.recv1 = config.recv1Disconnected
  params : t.params = s.params
  pending : t.pending = s.pending
  inputsCard : t.inputs.card = s.inputs.card
  inputsTap : t.inputs.multitapEnabled = s.inputs.multitapEnabled
  irqs : ∀ line, irqCount line t = irqCount line s
  cards : State.cardsWf s → State.cardsWf t
  cursor : 2 ≤ s.blk.ps1.cursor → 2 ≤ t.blk.ps1.cursor

/-- A result that is `HandlerRel`'s next state or the refusal of a short frame. -/
def Handles (s : State) : Result → Prop
  | .next t => HandlerRel s t
  | .fault _ => False
  | .refused why => why = .frameTooShort

variable {s t u : State}

theorem HandlerRel.refl (s : State) : HandlerRel s s where
  sio0 := rfl
  stat := .inl rfl
  sio2 := rfl
  recv1 := .inl rfl
  params := rfl
  pending := rfl
  inputsCard := rfl
  inputsTap := rfl
  irqs _ := rfl
  cards := id
  cursor := id

theorem HandlerRel.trans (h : HandlerRel s t) (g : HandlerRel t u) : HandlerRel s u where
  sio0 := by rw [g.sio0, h.sio0]
  stat := by
    rcases h.stat with h | h <;> rcases g.stat with g | g <;> rw [g, h]
    · exact .inl rfl
    · exact .inr rfl
    · exact .inr rfl
    · exact .inr (by rw [BitVec.or_assoc, BitVec.or_self])
  sio2 := by rw [g.sio2, h.sio2]
  recv1 := by
    rcases g.recv1 with g | g
    · rw [g]
      exact h.recv1
    · exact .inr g
  params := g.params.trans h.params
  pending := g.pending.trans h.pending
  inputsCard := g.inputsCard.trans h.inputsCard
  inputsTap := g.inputsTap.trans h.inputsTap
  irqs line := (g.irqs line).trans (h.irqs line)
  cards := g.cards ∘ h.cards
  cursor := g.cursor ∘ h.cursor

theorem Handles.mono {r : Result} (h : HandlerRel s t) (g : Handles t r) : Handles s r := by
  cases r with
  | next u => exact h.trans g
  | fault f => exact g
  | refused why => exact g

/-! ### The primitive updates -/

/-- An update that leaves the registers of both controllers, the inputs but for pad answers, the parameters, the stream
and the interrupt requests alone. -/
theorem HandlerRel.of_eq (h0 : t.blk.sio0 = s.blk.sio0) (h2 : t.blk.sio2 = s.blk.sio2) (hp : t.params = s.params)
    (hq : t.pending = s.pending) (hc : t.inputs.card = s.inputs.card)
    (ht : t.inputs.multitapEnabled = s.inputs.multitapEnabled) (hi : ∀ line, irqCount line t = irqCount line s)
    (hm : State.cardsWf s → State.cardsWf t) (hn : 2 ≤ s.blk.ps1.cursor → 2 ≤ t.blk.ps1.cursor) : HandlerRel s t where
  sio0 := by rw [h0]
  stat := .inl (by rw [h0])
  sio2 := by rw [h2]
  recv1 := .inl (by rw [h2])
  params := hp
  pending := hq
  inputsCard := hc
  inputsTap := ht
  irqs := hi
  cards := hm
  cursor := hn

theorem HandlerRel.pushOut (l : List Byte) : HandlerRel s (pushOut l s) :=
  .of_eq rfl rfl rfl rfl rfl rfl (fun _ => rfl) id id

theorem HandlerRel.setFifoIn (l : List Byte) : HandlerRel s (setFifoIn l s) :=
  .of_eq rfl rfl rfl rfl rfl rfl (fun _ => rfl) id id

theorem HandlerRel.setSlotRec (p : Port) (q : Slot) (r : SlotRecord) : HandlerRel s (setSlotRec p q r s) :=
  .of_eq rfl rfl rfl rfl rfl rfl (fun _ => rfl) id id

theorem HandlerRel.setPs1 (r : Ps1) (h : s.blk.ps1.cursor ≤ r.cursor ∨ 2 ≤ r.cursor) : HandlerRel s (setPs1 r s) :=
  .of_eq rfl rfl rfl rfl rfl rfl (fun _ => rfl) id fun h2 => h.elim (fun h => Nat.le_trans h2 h) id

theorem HandlerRel.drawFree : HandlerRel s (drawFree s) :=
  .of_eq rfl rfl rfl rfl rfl rfl (fun _ => rfl) id id

theorem HandlerRel.padAnswered : HandlerRel s (padAnswered s) := by
  rw [padAnswered_eq]
  exact .of_eq rfl rfl rfl rfl rfl rfl (fun _ => rfl) id id

theorem HandlerRel.emit (e : Event) (h : ∀ line, e ≠ .irq line) : HandlerRel s (emit e s) :=
  .of_eq rfl rfl rfl rfl rfl rfl
    (fun line => by
      simp only [irqCount, emit_events, List.count_append]
      rw [List.count_eq_zero_of_not_mem (l := [e]) (by simpa using (h line).symm)]
      rfl)
    id id

theorem HandlerRel.setRecv1 (v : Word) (h : v = config.recv1Connected ∨ v = config.recv1Disconnected) :
    HandlerRel s (setRecv1 v s) where
  sio0 := rfl
  stat := .inl rfl
  sio2 := rfl
  recv1 := .inr h
  params := rfl
  pending := rfl
  inputsCard := rfl
  inputsTap := rfl
  irqs _ := rfl
  cards := id
  cursor := id

theorem HandlerRel.ackIf (c : Bool) : HandlerRel s (ackIf c s) where
  sio0 := rfl
  stat := by
    cases c
    · exact .inl rfl
    · exact .inr rfl
  sio2 := rfl
  recv1 := .inl rfl
  params := rfl
  pending := rfl
  inputsCard := rfl
  inputsTap := rfl
  irqs _ := rfl
  cards := id
  cursor := id

theorem HandlerRel.cardSave (p : Port) (q : Slot) (addr : Word) (bytes : List Byte) :
    HandlerRel s (cardSave p q addr bytes s) := by
  unfold Machine.cardSave
  refine .trans ?_ (.emit _ (by simp))
  split
  · exact .of_eq rfl rfl rfl rfl rfl rfl (fun _ => rfl)
      (fun h => setCardMem_cardsWf s p q _ (Memory.wf_writeAll _ _ (h p q)) h) id
  · exact .refl s

theorem HandlerRel.cardErase (p : Port) (q : Slot) (addr : Word) : HandlerRel s (cardErase p q addr s) := by
  unfold Machine.cardErase
  refine .trans ?_ (.emit _ (by simp))
  split
  · exact .of_eq rfl rfl rfl rfl rfl rfl (fun _ => rfl)
      (fun h => setCardMem_cardsWf s p q _ (Memory.wf_forget _ _ (h p q)) h) id
  · exact .refl s

theorem HandlerRel.cardReadCall (p : Port) (q : Slot) (addr : Word) (n : Nat) :
    HandlerRel s (cardReadCall p q addr n s) :=
  .trans (.emit _ (by simp)) .drawFree

theorem HandlerRel.padStartCall (p : Port) (q : Slot) : HandlerRel s (padStartCall p q s) :=
  .trans .padAnswered (.emit _ (by simp))

theorem HandlerRel.padPollCall (b : Byte) : HandlerRel s (padPollCall b s) :=
  .trans .padAnswered (.emit _ (by simp))

theorem Handles.popIn {k : Byte → State → Result} (h : ∀ b t, HandlerRel s t → Handles t (k b t)) :
    Handles s (popIn s k) := by
  unfold Machine.popIn
  split
  · rfl
  · exact .mono (.setFifoIn _) (h _ _ (.setFifoIn _))

theorem Handles.popInN {n : Nat} {k : List Byte → State → Result} (h : ∀ l t, HandlerRel s t → Handles t (k l t)) :
    Handles s (popInN n s k) := by
  unfold Machine.popInN
  split
  · rfl
  · exact .mono (.setFifoIn _) (h _ _ (.setFifoIn _))

/-! ### The nested PS1 protocol -/

theorem HandlerRel.ps1Ack : HandlerRel s (ps1Ack s) := .ackIf true

theorem HandlerRel.ps1Advance : HandlerRel s (ps1Advance s) := .setPs1 _ (.inl (Nat.le_succ _))

theorem HandlerRel.ps1TakeMSB (b : Byte) : HandlerRel s (ps1TakeMSB b s) := .setPs1 _ (.inl (Nat.le_refl _))

theorem HandlerRel.ps1TakeLSB (p : Port) (q : Slot) (b : Byte) : HandlerRel s (ps1TakeLSB p q b s) :=
  .trans (.trans (.setPs1 _ (.inl (Nat.le_refl _))) (.setSlotRec p q _)) (.setPs1 _ (.inl (Nat.le_refl _)))

theorem HandlerRel.ps1Fetch (p : Port) (q : Slot) : HandlerRel s (ps1Fetch p q s) :=
  .trans (.cardReadCall p q _ _) (.setPs1 _ (.inl (Nat.le_refl _)))

theorem HandlerRel.ps1Reply (r : Ps1) (h : s.blk.ps1.cursor ≤ r.cursor) :
    HandlerRel s (Machine.ps1Ack (Machine.setPs1 r s)) := .trans (.setPs1 r (.inl h)) .ps1Ack

theorem HandlerRel.ps1ReadData (p : Port) (q : Slot) (i : Fin 128) : HandlerRel s (ps1ReadData p q i s).2 := by
  unfold Machine.ps1ReadData
  split
  · exact .trans (.ps1Fetch p q) (.ps1Reply _ (Nat.le_refl _))
  · exact .ps1Reply _ (Nat.le_refl _)

theorem HandlerRel.ps1Read (p : Port) (q : Slot) (b : Byte) : HandlerRel s (ps1Read p q b s).2 := by
  unfold Machine.ps1Read
  dsimp only
  generalize readPosition s.blk.ps1.cursor = pos
  cases pos with
  | addrMSB => exact .trans .ps1Advance (.trans (.ps1TakeMSB b) .ps1Ack)
  | addrLSB => exact .trans .ps1Advance (.trans (.ps1TakeLSB p q b) .ps1Ack)
  | data i => exact .trans .ps1Advance (.ps1ReadData p q i)
  | trailer => exact .ps1Advance
  | past => exact .trans .ps1Advance .drawFree
  | _ => exact .trans .ps1Advance .ps1Ack

theorem HandlerRel.ps1WriteCommit (p : Port) (q : Slot) : HandlerRel s (ps1WriteCommit p q s).2 := by
  unfold Machine.ps1WriteCommit
  split
  · exact .refl s
  · split
    · exact .refl s
    · exact .trans (.cardSave p q _ _) (.setSlotRec p q _)

theorem HandlerRel.ps1Write (p : Port) (q : Slot) (b : Byte) : HandlerRel s (ps1Write p q b s).2 := by
  unfold Machine.ps1Write
  dsimp only
  generalize writePosition s.blk.ps1.cursor = pos
  cases pos with
  | addrMSB => exact .trans .ps1Advance (.trans (.ps1TakeMSB b) .ps1Ack)
  | addrLSB => exact .trans .ps1Advance (.trans (.ps1TakeLSB p q b) .ps1Ack)
  | data i => exact .trans .ps1Advance (.ps1Reply _ (Nat.le_refl _))
  | checksum => exact .trans .ps1Advance (.ps1Reply _ (Nat.le_refl _))
  | status => exact .trans .ps1Advance (.ps1WriteCommit p q)
  | past => exact .trans .ps1Advance .drawFree
  | _ => exact .trans .ps1Advance .ps1Ack

theorem HandlerRel.ps1Drain {handler : Byte → State → Byte × State} (h : ∀ b s, HandlerRel s (handler b s).2)
    (bytes : List Byte) (s : State) : HandlerRel s (ps1Drain handler bytes s) := by
  induction bytes generalizing s with
  | nil => exact .refl s
  | cons b rest ih => exact .trans (h b s) (.trans (.pushOut _) (ih _))

theorem HandlerRel.ps1Nested {handler : Byte → State → Byte × State} (h : ∀ b s, HandlerRel s (handler b s).2) :
    HandlerRel s (ps1Nested handler s) :=
  .trans (.trans (.setPs1 _ (.inr (Nat.le_refl 2))) (.setFifoIn _)) (.ps1Drain h _ _)

/-! ### The handlers of frames -/

theorem HandlerRel.padReplyTo (n : Nat) (fill : Byte) (base : Nat) : HandlerRel s (padReplyTo n fill base s) :=
  .pushOut _

theorem HandlerRel.endReply (total base : Nat) (p : Port) (q : Slot) : HandlerRel s (endReply total base p q s) :=
  .trans (.pushOut _) (.pushOut _)

theorem Handles.ps1TypeGuard {p : Port} {q : Slot} {base : Nat} {command : State → Result}
    (h : Handles s (command s)) : Handles s (ps1TypeGuard p q base s command) := by
  unfold Machine.ps1TypeGuard
  split
  · exact HandlerRel.padReplyTo _ _ _
  · exact h

theorem Handles.mcSetSector (p : Port) (q : Slot) (base : Nat) : Handles s (mcSetSector p q base s) :=
  .ps1TypeGuard <| .popIn fun _ _ _ => .popIn fun _ _ _ => .popIn fun _ _ _ => .popIn fun _ _ _ => .popIn fun _ _ _ =>
    HandlerRel.trans (.setSlotRec p q _) (.endReply _ _ _ _)

theorem Handles.mcWriteData (p : Port) (q : Slot) (base : Nat) : Handles s (mcWriteData p q base s) :=
  .ps1TypeGuard <| .popIn fun _ _ _ => .popInN fun _ _ _ =>
    HandlerRel.trans (.cardSave p q _ _) (.trans (.pushOut _) (.setSlotRec p q _))

theorem Handles.mcReadData (p : Port) (q : Slot) (base : Nat) : Handles s (mcReadData p q base s) :=
  .ps1TypeGuard <| .popIn fun _ _ _ =>
    HandlerRel.trans (.cardReadCall p q _ _) (.trans (.pushOut _) (.setSlotRec p q _))

theorem Handles.mcAuthXor (p : Port) (q : Slot) (base : Nat) : Handles s (mcAuthXor p q base s) :=
  .ps1TypeGuard <| .popIn fun sub t _ => by
    cases authClassOf sub with
    | longXor => exact .popInN fun _ _ _ => HandlerRel.pushOut _
    | short => exact HandlerRel.endReply _ _ _ _
    | longNoXor => exact HandlerRel.endReply _ _ _ _
    | unknown => exact HandlerRel.refl t

theorem Handles.mcCommand (p : Port) (q : Slot) (base : Nat) (c : Byte) : Handles s (mcCommand p q base c s) := by
  unfold Machine.mcCommand
  cases mcCommandOf c with
  | probe => exact .ps1TypeGuard (HandlerRel.endReply _ _ _ _)
  | setEraseSector => exact .mcSetSector p q base
  | setWriteSector => exact .mcSetSector p q base
  | setReadSector => exact .mcSetSector p q base
  | getSpecs => exact .ps1TypeGuard (HandlerRel.pushOut _)
  | setTerminator => exact .ps1TypeGuard (.popIn fun _ _ _ => HandlerRel.trans (.setSlotRec p q _) (.pushOut _))
  | getTerminator => exact .ps1TypeGuard (HandlerRel.pushOut _)
  | writeData => exact .mcWriteData p q base
  | readData => exact .mcReadData p q base
  | ps1Read => exact HandlerRel.ps1Nested fun b s => .ps1Read p q b
  | ps1State => exact HandlerRel.ps1Nested fun _ _ => .ps1Advance
  | ps1Write => exact HandlerRel.ps1Nested fun b s => .ps1Write p q b
  | ps1Pocketstation => exact HandlerRel.trans (.setRecv1 _ (.inr rfl)) (.pushOut _)
  | readWriteEnd => exact .ps1TypeGuard (HandlerRel.endReply _ _ _ _)
  | eraseBlock => exact .ps1TypeGuard (HandlerRel.trans (.cardErase p q _) (.endReply _ _ _ _))
  | unknownBoot => exact .ps1TypeGuard (HandlerRel.endReply _ _ _ _)
  | authXor => exact .mcAuthXor p q base
  | authF3 => exact .ps1TypeGuard (HandlerRel.endReply _ _ _ _)
  | authF7 => exact .ps1TypeGuard (HandlerRel.endReply _ _ _ _)
  | unknown => exact HandlerRel.refl s

theorem HandlerRel.mcDeadAir : HandlerRel s (mcDeadAir s) := .trans (.pushOut _) (.setFifoIn _)

theorem Handles.sio2Memcard (base : Nat) : Handles s (sio2Memcard base s) := by
  unfold Machine.sio2Memcard
  dsimp only
  split
  · exact HandlerRel.trans (.setRecv1 _ (.inr rfl)) (.trans .mcDeadAir (.setSlotRec _ _ _))
  · split
    · exact HandlerRel.trans (.setRecv1 _ (.inr rfl)) .mcDeadAir
    · exact .mono (.setRecv1 _ (.inl rfl)) (.popIn fun c t _ => .mono (.pushOut _) (.mcCommand _ _ base c))

theorem HandlerRel.padDrain (bytes : List Byte) (s : State) : HandlerRel s (padDrain bytes s) := by
  induction bytes generalizing s with
  | nil => exact .refl s
  | cons b rest ih => exact .trans (.padPollCall b) (.trans (.pushOut _) (ih _))

theorem HandlerRel.sio2Pad : HandlerRel s (sio2Pad s) :=
  .trans (.padStartCall _ _)
    (.trans (.pushOut _) (.trans (.setRecv1 _ (.inl rfl)) (.trans (.setFifoIn _) (.padDrain _ _))))

theorem Handles.sio2Infrared (base : Nat) : Handles s (sio2Infrared base s) :=
  .mono (.setRecv1 _ (.inr rfl)) (.popIn fun _ _ _ => HandlerRel.padReplyTo _ _ _)

theorem HandlerRel.sio2UnknownMode : HandlerRel s (sio2UnknownMode s) :=
  .trans (.pushOut _) (.setRecv1 _ (.inr rfl))

/-- SIO2.slot replaced. -/
def withSlot (slot : Slot) (s : State) : State := setSio2 { s.blk.sio2 with slot := slot } s

@[simp] theorem withSlot_self (s : State) : withSlot s.blk.sio2.slot s = s := rfl

/-- A multitap frame does what a handler can, and may replace SIO2.slot. -/
theorem sio2Multitap_cases (base : Nat) (s : State) :
    ∃ slot, Handles (withSlot slot s) (sio2Multitap base s) := by
  unfold sio2Multitap
  dsimp only
  split
  · unfold mtapProtocol popIn
    split
    · exact ⟨s.blk.sio2.slot, rfl⟩
    · next c rest hf =>
      have h0 : HandlerRel s (setFifoIn rest (setRecv1 config.recv1Connected (pushOut [config.deadAir] s))) :=
        .trans (.pushOut _) (.trans (.setRecv1 _ (.inl rfl)) (.setFifoIn _))
      have hsel : ∃ slot, Handles (withSlot slot s)
          (mtapSelect (setFifoIn rest (setRecv1 config.recv1Connected (pushOut [config.deadAir] s)))) := by
        unfold mtapSelect popIn
        split
        · exact ⟨s.blk.sio2.slot, rfl⟩
        · next index rest' _ =>
          refine ⟨selectedSlot index s.blk.sio2.slot, ?_⟩
          have h1 : HandlerRel (withSlot (selectedSlot index s.blk.sio2.slot) s)
              (setFifoIn rest'
                (setFifoIn rest
                  (setRecv1 config.recv1Connected
                    (pushOut [config.deadAir] (withSlot (selectedSlot index s.blk.sio2.slot) s))))) :=
            .trans (.pushOut _) (.trans (.setRecv1 _ (.inl rfl)) (.trans (.setFifoIn _) (.setFifoIn _)))
          exact h1.trans (.pushOut _)
      dsimp only
      generalize mtapCommandOf c = command
      cases command with
      | padSupportCheck => exact ⟨s.blk.sio2.slot, h0.trans (.pushOut _)⟩
      | memcardSupportCheck => exact ⟨s.blk.sio2.slot, h0.trans (.pushOut _)⟩
      | selectPad => exact hsel
      | selectMemcard => exact hsel
      | unknown => exact ⟨s.blk.sio2.slot, h0⟩
  · exact ⟨s.blk.sio2.slot, HandlerRel.trans (.pushOut _) (.trans (.setRecv1 _ (.inr rfl)) (.padReplyTo _ _ _))⟩

/-- Any mode's handler does what a handler can; the multitap's may replace SIO2.slot too. -/
theorem sio2Dispatch_cases (m : Byte) (base : Nat) (s : State) :
    ∃ slot, (m ≠ config.modeMultitap → slot = s.blk.sio2.slot) ∧ Handles (withSlot slot s) (sio2Dispatch m base s) := by
  rcases frameModeOf_cases m with ⟨hm, rfl⟩ | ⟨hm, rfl⟩ | ⟨hm, rfl⟩ | ⟨hm, rfl⟩ | ⟨hm, _⟩ <;>
    simp only [sio2Dispatch, hm]
  · exact ⟨s.blk.sio2.slot, fun _ => rfl, HandlerRel.sio2Pad⟩
  · obtain ⟨slot, h⟩ := sio2Multitap_cases base s
    exact ⟨slot, fun h => absurd rfl h, h⟩
  · exact ⟨s.blk.sio2.slot, fun _ => rfl, Handles.sio2Infrared base⟩
  · exact ⟨s.blk.sio2.slot, fun _ => rfl, Handles.sio2Memcard base⟩
  · exact ⟨s.blk.sio2.slot, fun _ => rfl, HandlerRel.sio2UnknownMode⟩

theorem HandlerRel.sio2DmaPad : HandlerRel s (sio2DmaPad s) := by
  unfold Machine.sio2DmaPad
  dsimp only
  split
  · exact .pushOut _
  · exact .refl s

end Sys2Proof.Machine
end

