-- ==== Sys2Proof/Laws/Paths.lean ====
section
/-! SUPPORT. What a write of DATA_IN and a write of TX_DATA can do, said once each (`DataRel`, `TxRel`), and the same of
a run of them. A claim about every instruction goes through these. -/

namespace Sys2Proof.Machine

variable {s t u : State}

/-! ### DATA_IN -/

/-- What a run of DATA_IN writes can change: STAT by setting ACK, of SIO2 the cursor, its flags, port, slot, command
length and RECV1, and what a handler can change beside the registers. -/
structure DataRel (s t : State) : Prop where
  sio0 : t.blk.sio0 = { s.blk.sio0 with stat := t.blk.sio0.stat }
  stat : t.blk.sio0.stat = s.blk.sio0.stat ∨ t.blk.sio0.stat = s.blk.sio0.stat ||| config.statAck
  sio2 : t.blk.sio2 =
    { s.blk.sio2 with
      port := t.blk.sio2.port
      slot := t.blk.sio2.slot
      commandLength := t.blk.sio2.commandLength
      send3Position := t.blk.sio2.send3Position
      send3Read := t.blk.sio2.send3Read
      send3Complete := t.blk.sio2.send3Complete
      recv1 := t.blk.sio2.recv1 }
  recv1 : t.blk.sio2.recv1 = s.blk.sio2.recv1 ∨ t.blk.sio2.recv1 = config.recv1Connected
    ∨ t.blk.sio2.recv1 = config.recv1Disconnected
  params : t.params = s.params
  pending : t.pending = s.pending
  inputsCard : t.inputs.card = s.inputs.card
  inputsTap : t.inputs.multitapEnabled = s.inputs.multitapEnabled
  irqs : ∀ line, irqCount line t = irqCount line s
  cards : State.cardsWf s → State.cardsWf t
  cursor : 2 ≤ s.blk.ps1.cursor → 2 ≤ t.blk.ps1.cursor
  length : s.blk.sio2.commandLength ≤ 511 → t.blk.sio2.commandLength ≤ 511
  cursorSound : Block.cursorSound s.blk = true → Block.cursorSound t.blk = true

/-- A result that is `DataRel`'s next state or the refusal of a short frame. -/
def Sends (s : State) : Result → Prop
  | .next t => DataRel s t
  | .fault _ => False
  | .refused why => why = .frameTooShort

theorem HandlerRel.dataRel (h : HandlerRel s t) : DataRel s t where
  sio0 := h.sio0
  stat := h.stat
  sio2 := by rw [h.sio2]
  recv1 := h.recv1
  params := h.params
  pending := h.pending
  inputsCard := h.inputsCard
  inputsTap := h.inputsTap
  irqs := h.irqs
  cards := h.cards
  cursor := h.cursor
  length := by rw [h.sio2]; exact id
  cursorSound := by
    simp only [Block.cursorSound, Block.positionInRange]
    rw [h.sio2]
    exact id

theorem DataRel.refl (s : State) : DataRel s s := (HandlerRel.refl s).dataRel

theorem DataRel.trans (h : DataRel s t) (g : DataRel t u) : DataRel s u where
  sio0 := by rw [g.sio0, h.sio0]
  stat := by
    rcases h.stat with h | h <;> rcases g.stat with g | g <;> rw [g, h]
    · exact .inl rfl
    · exact .inr rfl
    · exact .inr rfl
    · exact .inr (by rw [BitVec.or_assoc, BitVec.or_self])
  sio2 := by rw [g.sio2, h.sio2]
  recv1 := by
    rcases g.recv1 with g | g
    · rw [g]
      exact h.recv1
    · exact .inr g
  params := g.params.trans h.params
  pending := g.pending.trans h.pending
  inputsCard := g.inputsCard.trans h.inputsCard
  inputsTap := g.inputsTap.trans h.inputsTap
  irqs line := (g.irqs line).trans (h.irqs line)
  cards := g.cards ∘ h.cards
  cursor := g.cursor ∘ h.cursor
  length := g.length ∘ h.length
  cursorSound := g.cursorSound ∘ h.cursorSound

theorem Sends.mono {r : Result} (h : DataRel s t) (g : Sends t r) : Sends s r := by
  cases r with
  | next u => exact h.trans g
  | fault f => exact g
  | refused why => exact g

theorem Handles.sends {r : Result} (h : Handles s r) : Sends s r := by
  cases r with
  | next u => exact HandlerRel.dataRel h
  | fault f => exact h
  | refused why => exact h

theorem Sends.andThen {r : Result} {k : State → Result} (h : Sends s r) (g : ∀ t, DataRel s t → Sends t (k t)) :
    Sends s (andThen r k) := by
  cases r with
  | next u => exact .mono h (g u h)
  | fault f => exact h
  | refused why => exact h

/-- SIO2 replaced by a group that differs in the cursor, its flags, port, slot and command length alone. -/
theorem DataRel.setSio2 (r : Sio2)
    (h : r = { s.blk.sio2 with
      port := r.port
      slot := r.slot
      commandLength := r.commandLength
      send3Position := r.send3Position
      send3Read := r.send3Read
      send3Complete := r.send3Complete })
    (hl : s.blk.sio2.commandLength ≤ 511 → r.commandLength ≤ 511)
    (hc : Block.cursorSound s.blk = true → Block.cursorSound { s.blk with sio2 := r } = true) :
    DataRel s (setSio2 r s) where
  sio0 := rfl
  stat := .inl rfl
  sio2 := by
    show r = _
    rw [h]
    rfl
  recv1 := .inl (by show r.recv1 = _; rw [h])
  params := rfl
  pending := rfl
  inputsCard := rfl
  inputsTap := rfl
  irqs _ := rfl
  cards := id
  cursor := id
  length := hl
  cursorSound := hc

theorem DataRel.withSlot (slot : Slot) : DataRel s (withSlot slot s) := .setSio2 _ rfl id id

theorem entryLength_le (e : Word) : entryLength e ≤ 511 := by
  have := (e.extractLsb' 8 9).isLt
  show (e.extractLsb' 8 9).toNat ≤ 511
  omega

theorem DataRel.sio2DecodeEntry : DataRel s (sio2DecodeEntry s) := by
  refine .trans (.setSio2 (decodedEntry s.blk.sio2) ?_ ?_ ?_) (HandlerRel.setFifoIn _).dataRel
  · unfold decodedEntry
    split <;> rfl
  · unfold decodedEntry
    split
    · exact fun _ => entryLength_le _
    · exact id
  · intro h
    simp only [Block.cursorSound, Block.positionInRange, Bool.and_eq_true, decide_eq_true_eq] at h ⊢
    refine ⟨by simpa using h.1, ?_⟩
    unfold decodedEntry
    split
    · next hp => simp [hp]
    · simp

theorem Sends.sio2Complete (hr : s.blk.sio2.send3Read = true) (hc : s.blk.sio2.send3Complete = false) :
    Sends s (sio2Complete s) := by
  have ha : DataRel s (sio2Advance s) := by
    refine .setSio2 _ rfl id fun h => ?_
    simp only [Block.cursorSound, Block.positionInRange, Bool.and_eq_true, decide_eq_true_eq, hr, hc,
      Bool.not_true, Bool.or_false, Bool.false_or, Bool.not_false, Bool.true_or, and_true] at h ⊢
    omega
  unfold Machine.sio2Complete popIn
  split
  · rfl
  · next m rest _ =>
    obtain ⟨slot, -, h⟩ := sio2Dispatch_cases m (replyBase (setFifoIn rest (sio2Advance s)))
      (setFifoIn rest (sio2Advance s))
    refine .mono (ha.trans (HandlerRel.setFifoIn rest).dataRel) (.andThen (.mono (.withSlot slot) h.sends) ?_)
    exact fun t _ => HandlerRel.sio2DmaPad.dataRel

/-- What one DATA_IN write can do. -/
theorem Sends.sio2Write (b : Byte) (s : State) : Sends s (sio2Write b s) := by
  have h0 : DataRel s (if s.blk.sio2.send3Read then s else sio2DecodeEntry s) := by
    split
    · exact .refl s
    · exact .sio2DecodeEntry
  have hr : (if s.blk.sio2.send3Read then s else Machine.sio2DecodeEntry s).blk.sio2.send3Read = true := by
    split
    · next h => exact h
    · simp [Machine.sio2DecodeEntry]
  unfold Machine.sio2Write
  generalize (if s.blk.sio2.send3Read then s else Machine.sio2DecodeEntry s) = v at h0 hr
  dsimp only
  split
  · exact h0
  · next hc =>
    refine .mono (h0.trans (HandlerRel.setFifoIn (v.blk.fifoIn ++ [b])).dataRel) ?_
    split
    · exact .sio2Complete hr (by simpa using hc)
    · exact DataRel.refl _

/-- What a run of DATA_IN writes can do. -/
theorem Sends.sendFrame (bytes : List Byte) (s : State) : Sends s (sendFrame bytes s) := by
  induction bytes generalizing s with
  | nil => exact DataRel.refl s
  | cons b rest ih => exact .andThen (.sio2Write b s) fun t _ => ih t

/-! ### TX_DATA -/

/-- What a run of n TX_DATA writes can change: the registers of SIO0 but CTRL and MODE, slot records, the PS1 record,
card memory, pad answers, the free-value counter and events, n of them interrupt requests. -/
structure TxRel (n : Nat) (s t : State) : Prop where
  ctrl : t.blk.sio0.ctrl = s.blk.sio0.ctrl
  mode : t.blk.sio0.mode = s.blk.sio0.mode
  stat : ∀ k, k ≠ 0 → k ≠ 1 → k ≠ 2 → k ≠ 7 → t.blk.sio0.stat.getLsbD k = s.blk.sio0.stat.getLsbD k
  sio2 : t.blk.sio2 = s.blk.sio2
  fifoIn : t.blk.fifoIn = s.blk.fifoIn
  fifoOut : t.blk.fifoOut = s.blk.fifoOut
  params : t.params = s.params
  pending : t.pending = s.pending
  inputsCard : t.inputs.card = s.inputs.card
  inputsTap : t.inputs.multitapEnabled = s.inputs.multitapEnabled
  irqs0 : irqCount .sio0 t = irqCount .sio0 s + n
  irqs2 : irqCount .sio2 t = irqCount .sio2 s
  cards : State.cardsWf s → State.cardsWf t
  cursor : 2 ≤ s.blk.ps1.cursor → 2 ≤ t.blk.ps1.cursor
  coherent : Block.sio0Coherent s.blk = true → Block.sio0Coherent t.blk = true

theorem TxRel.refl (s : State) : TxRel 0 s s := ⟨rfl, rfl, fun _ _ _ _ _ => rfl, rfl, rfl, rfl, rfl, rfl, rfl, rfl,
  rfl, rfl, id, id, id⟩

theorem TxRel.trans {m n : Nat} (h : TxRel m s t) (g : TxRel n t u) : TxRel (m + n) s u where
  ctrl := g.ctrl.trans h.ctrl
  mode := g.mode.trans h.mode
  stat k h0 h1 h2 h7 := (g.stat k h0 h1 h2 h7).trans (h.stat k h0 h1 h2 h7)
  sio2 := g.sio2.trans h.sio2
  fifoIn := g.fifoIn.trans h.fifoIn
  fifoOut := g.fifoOut.trans h.fifoOut
  params := g.params.trans h.params
  pending := g.pending.trans h.pending
  inputsCard := g.inputsCard.trans h.inputsCard
  inputsTap := g.inputsTap.trans h.inputsTap
  irqs0 := by rw [g.irqs0, h.irqs0, Nat.add_assoc]
  irqs2 := g.irqs2.trans h.irqs2
  cards := g.cards ∘ h.cards
  cursor := g.cursor ∘ h.cursor
  coherent := g.coherent ∘ h.coherent

theorem getLsbD_statAck (k : Nat) (h : k ≠ 7) : config.statAck.getLsbD k = false := by
  have : config.statAck = BitVec.twoPow 32 7 := by decide
  rw [this, BitVec.getLsbD_twoPow]
  simp [Ne.symm h]

theorem HandlerRel.txRel (h : HandlerRel s t) (h2 : t.blk.sio2 = s.blk.sio2) (hi : t.blk.fifoIn = s.blk.fifoIn)
    (ho : t.blk.fifoOut = s.blk.fifoOut) : TxRel 0 s t where
  ctrl := by rw [h.sio0]
  mode := by rw [h.sio0]
  stat k h0 h1 h2 h7 := by
    rcases h.stat with h | h <;> rw [h]
    rw [BitVec.getLsbD_or, getLsbD_statAck k h7, Bool.or_false]
  sio2 := h2
  fifoIn := hi
  fifoOut := ho
  params := h.params
  pending := h.pending
  inputsCard := h.inputsCard
  inputsTap := h.inputsTap
  irqs0 := h.irqs _
  irqs2 := h.irqs _
  cards := h.cards
  cursor := h.cursor
  coherent := by
    simp only [Block.sio0Coherent]
    rw [h.sio0]
    exact id

/-- SIO0 replaced by a group that differs in STAT's bits 0, 1, 2 and 7, the two data registers, and the protocol's three
elements alone. -/
theorem TxRel.setSio0 (r : Sio0) (hc : r.ctrl = s.blk.sio0.ctrl) (hm : r.mode = s.blk.sio0.mode)
    (hs : ∀ k, k ≠ 0 → k ≠ 1 → k ≠ 2 → k ≠ 7 → r.stat.getLsbD k = s.blk.sio0.stat.getLsbD k)
    (hh : Block.sio0Coherent s.blk = true → Block.sio0Coherent { s.blk with sio0 := r } = true) :
    TxRel 0 s (setSio0 r s) :=
  ⟨hc, hm, hs, rfl, rfl, rfl, rfl, rfl, rfl, rfl, rfl, rfl, id, id, hh⟩

theorem TxRel.setStage (stage : Stage) (mode : SioMode)
    (h : Block.sio0Coherent { s.blk with sio0 := { s.blk.sio0 with stage := stage, sioMode := mode } } = true) :
    TxRel 0 s (setStage stage mode s) :=
  .setSio0 _ rfl rfl (fun _ _ _ _ _ => rfl) fun _ => h

theorem TxRel.ackIf (c : Bool) : TxRel 0 s (ackIf c s) := (HandlerRel.ackIf c).txRel rfl rfl rfl

theorem TxRel.sio0SoftReset : TxRel 0 s (sio0SoftReset s) :=
  .trans (.setSio0 { s.blk.sio0 with stage := .idle, sioMode := .notSet, command := 0 } rfl rfl
    (fun _ _ _ _ _ => rfl) fun _ => rfl)
    ((HandlerRel.setPs1 Ps1.start (.inr (Nat.le_refl 2))).txRel rfl rfl rfl)

theorem TxRel.padStartCall (p : Port) (q : Slot) : TxRel 0 s (padStartCall p q s) := by
  refine (HandlerRel.padStartCall p q).txRel ?_ ?_ ?_ <;> rw [padStartCall_eq]

theorem TxRel.padPollCall (b : Byte) : TxRel 0 s (padPollCall b s) := by
  refine (HandlerRel.padPollCall b).txRel ?_ ?_ ?_ <;> rw [padPollCall_eq]

theorem ps1ReadData_queues (p : Port) (q : Slot) (i : Fin 128) :
    (ps1ReadData p q i s).2.blk.sio2 = s.blk.sio2 ∧ (ps1ReadData p q i s).2.blk.fifoIn = s.blk.fifoIn ∧
      (ps1ReadData p q i s).2.blk.fifoOut = s.blk.fifoOut := by
  unfold ps1ReadData
  split <;> exact ⟨rfl, rfl, rfl⟩

theorem ps1Read_queues (p : Port) (q : Slot) (b : Byte) :
    (ps1Read p q b s).2.blk.sio2 = s.blk.sio2 ∧ (ps1Read p q b s).2.blk.fifoIn = s.blk.fifoIn ∧
      (ps1Read p q b s).2.blk.fifoOut = s.blk.fifoOut := by
  unfold ps1Read
  dsimp only
  generalize readPosition s.blk.ps1.cursor = pos
  cases pos with
  | data i => exact ps1ReadData_queues p q i
  | _ => exact ⟨rfl, rfl, rfl⟩

theorem ps1WriteCommit_queues (p : Port) (q : Slot) :
    (ps1WriteCommit p q s).2.blk = { s.blk with mcd := (ps1WriteCommit p q s).2.blk.mcd } := by
  unfold ps1WriteCommit
  split
  · rfl
  · split
    · rfl
    · dsimp only
      rw [cardSave_eq]
      rfl

theorem ps1Write_queues (p : Port) (q : Slot) (b : Byte) :
    (ps1Write p q b s).2.blk.sio2 = s.blk.sio2 ∧ (ps1Write p q b s).2.blk.fifoIn = s.blk.fifoIn ∧
      (ps1Write p q b s).2.blk.fifoOut = s.blk.fifoOut := by
  unfold ps1Write
  dsimp only
  generalize writePosition s.blk.ps1.cursor = pos
  cases pos with
  | status =>
    dsimp only
    rw [ps1WriteCommit_queues]
    exact ⟨rfl, rfl, rfl⟩
  | _ => exact ⟨rfl, rfl, rfl⟩

theorem TxRel.ps1Read (p : Port) (q : Slot) (b : Byte) : TxRel 0 s (ps1Read p q b s).2 :=
  (HandlerRel.ps1Read p q b).txRel (ps1Read_queues p q b).1 (ps1Read_queues p q b).2.1 (ps1Read_queues p q b).2.2

theorem TxRel.ps1Write (p : Port) (q : Slot) (b : Byte) : TxRel 0 s (ps1Write p q b s).2 :=
  (HandlerRel.ps1Write p q b).txRel (ps1Write_queues p q b).1 (ps1Write_queues p q b).2.1 (ps1Write_queues p q b).2.2

theorem TxRel.s0PadPoll (b : Byte) : TxRel 0 s (s0PadPoll b s).2 := .trans (.padPollCall b) (.ackIf _)

theorem TxRel.s0Idle (b : Byte) : TxRel 0 s (s0Idle b s).2 := by
  unfold Machine.s0Idle
  split
  · exact .trans (.padStartCall _ _) (.trans (.ackIf _) (.setStage _ _ rfl))
  · split
    · unfold s0MemcardMode
      dsimp only
      split
      · exact (HandlerRel.setSlotRec _ _ _).txRel rfl rfl rfl
      · split
        · exact .refl s
        · exact .trans (.ackIf _) (.setStage _ _ rfl)
    · exact .refl s

theorem TxRel.s0PadCommand (b : Byte) : TxRel 0 s (s0PadCommand b s).2 := by
  unfold Machine.s0PadCommand
  split
  · exact .trans (.s0PadPoll b) (.setStage _ _ rfl)
  · exact .sio0SoftReset

theorem TxRel.s0Latch (b : Byte) (h : ([0x52, 0x53, 0x57] : List Byte).contains b = true) :
    TxRel 0 s (s0Latch b s).2 := by
  refine ⟨rfl, rfl, fun k h0 h1 h2 h7 => ?_, rfl, rfl, rfl, rfl, rfl, rfl, rfl, rfl, rfl, id, fun _ => Nat.le_refl 2,
    fun _ => h⟩
  exact (TxRel.ackIf (s := s) true).stat k h0 h1 h2 h7

theorem TxRel.s0MemcardCommand (b : Byte) : TxRel 0 s (s0MemcardCommand b s).2 := by
  unfold Machine.s0MemcardCommand
  rcases ps1CommandOf_cases b with ⟨hb, rfl⟩ | ⟨hb, rfl⟩ | ⟨hb, rfl⟩ | ⟨hb, rfl⟩ | ⟨hb, _⟩ <;> rw [hb]
  · exact .s0Latch _ rfl
  · exact .s0Latch _ rfl
  · exact .s0Latch _ rfl
  · exact .setStage _ _ rfl
  · exact .sio0SoftReset

theorem TxRel.s0Desync : TxRel 0 s (s0Desync s).2 := HandlerRel.drawFree.txRel rfl rfl rfl

/-- What the state machine's step can do. -/
theorem TxRel.sio0Step (b : Byte) (s : State) : TxRel 0 s (sio0Step b s).2 := by
  unfold Machine.sio0Step
  split
  · exact .s0Idle b
  · exact .s0PadCommand b
  · exact .s0MemcardCommand b
  · exact .sio0SoftReset
  · exact .s0PadPoll b
  · unfold s0MemcardBody
    split
    · exact .ps1Read _ _ b
    · exact HandlerRel.ps1Advance.txRel rfl rfl rfl
    · exact .ps1Write _ _ b
    · exact .s0Desync
    · exact .s0Desync
  · exact .s0Desync

theorem TxRel.txStored (b : Byte) : TxRel 0 s (txStored b s) := by
  refine .setSio0 _ rfl rfl (fun k h0 h1 h2 _ => ?_) id
  rw [show (statAfterTx s.blk.sio0.stat) = s.blk.sio0.stat ||| 0x00000007 from statAfterTx_eq _]
  rw [show (0x00000007 : Word) = BitVec.twoPow 32 0 ||| BitVec.twoPow 32 1 ||| BitVec.twoPow 32 2 by decide]
  simp [BitVec.getLsbD_twoPow, Ne.symm h0, Ne.symm h1, Ne.symm h2]

theorem TxRel.txReplied (r : Byte) : TxRel 1 s (txReplied r s) :=
  ⟨rfl, rfl, fun _ _ _ _ _ => rfl, rfl, rfl, rfl, rfl, rfl, rfl, rfl, by
    simp [irqCount, Machine.txReplied, raiseIrq, emit, Machine.setSio0], by
    simp [irqCount, Machine.txReplied, raiseIrq, emit, Machine.setSio0], id, id, id⟩

/-- What one TX_DATA write does: it answers, in every state. -/
theorem txWrite_cases (b : Byte) (s : State) :
    ∃ t, txWrite b s = .next t ∧ TxRel (if txGated s then 0 else 1) s t := by
  cases hg : txGated s with
  | true => exact ⟨s, by simp [txWrite, hg], .refl s⟩
  | false => exact ⟨_, txWrite_step b s hg, .trans (.trans (.txStored b) (.sio0Step b _)) (.txReplied _)⟩

/-- What a run of TX_DATA writes does: it answers, in every state. -/
theorem sendTransaction_cases (bytes : List Byte) (s : State) :
    ∃ t, sendTransaction bytes s = .next t ∧ TxRel (if txGated s then 0 else bytes.length) s t := by
  induction bytes generalizing s with
  | nil => exact ⟨s, rfl, by split <;> exact .refl s⟩
  | cons b rest ih =>
    obtain ⟨t, ht, h⟩ := txWrite_cases b s
    obtain ⟨u, hu, g⟩ := ih t
    have hg : txGated t = txGated s := by rw [txGated, txGated, h.params, h.ctrl]
    refine ⟨u, by rw [sendTransaction, ht, andThen_next, hu], ?_⟩
    rw [hg] at g
    have := TxRel.trans h g
    cases hx : txGated s <;> simp only [hx, if_true, Bool.false_eq_true, if_false, List.length_cons] at this ⊢
    · rw [Nat.add_comm]
      exact this
    · exact this

end Sys2Proof.Machine
end

