-- ==== Sys2Proof/Laws/Memcard.lean ====
section
/-! SUPPORT. A whole memory-card frame, said once: the command's handler runs after the preamble, on the bytes after the
command byte, in `memcardStart`, and the DMA fill follows. -/

namespace Sys2Proof.Machine

variable (s : State)

/-- The DMA fill, as a list of bytes queued. -/
theorem sio2DmaPad_eq : sio2DmaPad s = pushOut (dmaFill s.blk.sio2.dmaBlockSize s.blk.fifoOut.length) s := by
  unfold sio2DmaPad dmaFill
  dsimp only
  split
  · rfl
  · simp [pushOut]

/-- The state a command's handler runs in, the preamble queued. -/
def memcardStart (rest : List Byte) : State :=
  pushOut (preamble s) (setRecv1 config.recv1Connected (frameStart rest s))

/-- A whole frame to a slot that answers. -/
theorem sendFrame_memcard (c : Byte) (rest : List Byte) (h : frameReady (rest.length + 2) s = true)
    (ha : cardAnswers s = true) :
    sendFrame (0x81 :: c :: rest) s =
      andThen (mcCommand (nextPort s) s.blk.sio2.slot (replyBase s) c (memcardStart s rest)) fun t =>
        .next (sio2DmaPad t) := by
  obtain ⟨ht, hp⟩ := (cardAnswers_iff s).mp ha
  rw [sendFrame_whole 0x81 (c :: rest) s h]
  congr 1
  have hd : frameModeOf 0x81 = .memcard := rfl
  have e2 : (frameStart (c :: rest) s).blk.sio2.slot = s.blk.sio2.slot := by simp [frameStart]
  simp only [sio2Dispatch, hd, sio2Memcard, sio2Card, e2]
  rw [if_neg, if_neg]
  · rfl
  · exact fun h => absurd (hp.symm.trans h) (by simp)
  · exact fun h => absurd ht (Nat.pos_iff_ne_zero.mp h)

/-- An instruction that is a memory-card frame, on a slot that answers. -/
theorem exec_memcard (i : Instr) (c : Byte) (rest : List Byte) (h : encode i = .frame (0x81 :: c :: rest))
    (hr : frameReady (rest.length + 2) s = true) (ha : cardAnswers s = true) :
    exec i s =
      andThen (mcCommand (nextPort s) s.blk.sio2.slot (replyBase s) c (memcardStart s rest)) fun t =>
        .next (sio2DmaPad t) := by
  rw [exec_frame i _ s h, sendFrame_memcard s c rest hr ha]

/-! ### What the start has -/

variable (rest : List Byte)

@[simp] theorem memcardStart_port : (memcardStart s rest).blk.sio2.port = nextPort s := rfl

@[simp] theorem memcardStart_commandLength : (memcardStart s rest).blk.sio2.commandLength = nextLength s := rfl

@[simp] theorem memcardStart_fifoIn : (memcardStart s rest).blk.fifoIn = rest := rfl

@[simp] theorem memcardStart_fifoOut : (memcardStart s rest).blk.fifoOut = s.blk.fifoOut ++ preamble s := rfl

@[simp] theorem slotRec_memcardStart (p : Port) (q : Slot) : slotRec p q (memcardStart s rest) = slotRec p q s := rfl

@[simp] theorem cardInput_memcardStart (p : Port) (q : Slot) :
    cardInput p q (memcardStart s rest) = cardInput p q s := rfl

@[simp] theorem cardMem_memcardStart (p : Port) (q : Slot) : cardMem p q (memcardStart s rest) = cardMem p q s := rfl

@[simp] theorem memcardStart_params : (memcardStart s rest).params = s.params := rfl

@[simp] theorem memcardStart_dmaBlockSize : (memcardStart s rest).blk.sio2.dmaBlockSize = s.blk.sio2.dmaBlockSize := by
  simp [memcardStart, frameStart, setRecv1]

/-- The first byte after the command byte is popped. -/
theorem popIn_memcardStart (b : Byte) (k : Byte → State → Result) :
    popIn (memcardStart s (b :: rest)) k = k b (setFifoIn rest (memcardStart s (b :: rest))) :=
  popIn_cons _ b rest k rfl

/-- A further byte is popped. -/
theorem popIn_setFifoIn (b : Byte) (k : Byte → State → Result) :
    popIn (setFifoIn (b :: rest) s) k = k b (setFifoIn rest s) := by
  rw [popIn_cons _ b rest k rfl]
  rfl

/-- What was queued before the preamble counts towards a reply's length exactly where PAD_BASIS is absolute. -/
theorem queued_memcardStart : (memcardStart s rest).blk.fifoOut.length - replyBase s = 2 + alreadyCounted s := by
  simp only [memcardStart_fifoOut, List.length_append, preamble, List.length_cons, List.length_nil, replyBase,
    alreadyCounted]
  cases s.params.padBasis <;> simp only [] <;> omega

/-! ### The command of each code -/

variable (p : Port) (q : Slot) (base : Nat)

@[simp] theorem mcCommand_probe : mcCommand p q base 0x11 s = mcProbe p q base s := rfl
@[simp] theorem mcCommand_setEraseSector : mcCommand p q base 0x21 s = mcSetSector p q base s := rfl
@[simp] theorem mcCommand_setWriteSector : mcCommand p q base 0x22 s = mcSetSector p q base s := rfl
@[simp] theorem mcCommand_setReadSector : mcCommand p q base 0x23 s = mcSetSector p q base s := rfl
@[simp] theorem mcCommand_getSpecs : mcCommand p q base 0x26 s = mcGetSpecs p q base s := rfl
@[simp] theorem mcCommand_setTerminator : mcCommand p q base 0x27 s = mcSetTerminator p q base s := rfl
@[simp] theorem mcCommand_getTerminator : mcCommand p q base 0x28 s = mcGetTerminator p q base s := rfl
@[simp] theorem mcCommand_writeData : mcCommand p q base 0x42 s = mcWriteData p q base s := rfl
@[simp] theorem mcCommand_readData : mcCommand p q base 0x43 s = mcReadData p q base s := rfl
@[simp] theorem mcCommand_ps1Read : mcCommand p q base 0x52 s = .next (mcPs1Read p q s) := rfl
@[simp] theorem mcCommand_ps1State : mcCommand p q base 0x53 s = .next (mcPs1State s) := rfl
@[simp] theorem mcCommand_ps1Write : mcCommand p q base 0x57 s = .next (mcPs1Write p q s) := rfl
@[simp] theorem mcCommand_ps1Pocketstation : mcCommand p q base 0x58 s = .next (mcPs1Pocketstation s) := rfl
@[simp] theorem mcCommand_readWriteEnd : mcCommand p q base 0x81 s = mcReadWriteEnd p q base s := rfl
@[simp] theorem mcCommand_eraseBlock : mcCommand p q base 0x82 s = mcEraseBlock p q base s := rfl
@[simp] theorem mcCommand_unknownBoot : mcCommand p q base 0xBF s = mcUnknownBoot p q base s := rfl
@[simp] theorem mcCommand_authXor : mcCommand p q base 0xF0 s = mcAuthXor p q base s := rfl
@[simp] theorem mcCommand_authF3 : mcCommand p q base 0xF3 s = mcAuthShort p q base s := rfl
@[simp] theorem mcCommand_authF7 : mcCommand p q base 0xF7 s = mcAuthShort p q base s := rfl

/-! ### The ends of a frame -/

/-- A reply queued after the start, the leftover in fifoIn, and the fill. -/
theorem memcardStart_done (reply leftover : List Byte) :
    sio2DmaPad (pushOut reply (setFifoIn leftover (memcardStart s rest))) =
      frameDone s config.recv1Connected (preamble s ++ reply) leftover := by
  rw [← sio2DmaPad_frame s rest]
  simp [memcardStart, pushOut, setFifoIn]

end Sys2Proof.Machine
end

