-- ==== Sys2Proof/Laws/Ps1.lean ====
section
/-! SUPPORT. The PS1 layout as a whole: what the handlers of Read and Write leave after any number of bytes (`ReadAt`,
`WriteAt`), and the replies they gave. A claim about a transaction or about a nested frame goes through these; each
is kept by a byte of its handler and depends on no register. -/

namespace Sys2Proof.Machine

variable (p : Port) (q : Slot) (s0 : State)

/-! ### Addresses and positions -/

/-- The 16-bit address, most significant byte first, as a number. -/
theorem ps1Address_eq (msb lsb : Byte) : ps1Address msb lsb = BitVec.ofNat 32 (256 * msb.toNat + lsb.toNat) := by
  have h1 := msb.isLt
  have h2 := lsb.isLt
  have m1 : msb.toNat <<< 8 < 2 ^ 32 := by
    rw [Nat.shiftLeft_eq]
    omega
  apply BitVec.eq_of_toNat_eq
  simp only [ps1Address, BitVec.toNat_or, BitVec.toNat_shiftLeft, BitVec.toNat_setWidth, BitVec.toNat_ofNat,
    Nat.mod_eq_of_lt (show msb.toNat < 2 ^ 32 by omega), Nat.mod_eq_of_lt (show lsb.toNat < 2 ^ 32 by omega),
    Nat.mod_eq_of_lt m1]
  rw [← Nat.shiftLeft_add_eq_or_of_lt h2, Nat.shiftLeft_eq]
  omega

/-- The recompute of R242 leaves the record of `addressed`. -/
theorem addressed_eq (r : SlotRecord) (msb lsb : Byte) :
    { r with
      sectorAddr := ps1Address msb lsb
      goodSector := ps1AddressGood (ps1Address msb lsb)
      transferAddr := ps1ByteAddress (ps1Address msb lsb) } = addressed r msb lsb := by
  have h1 := msb.isLt
  have h2 := lsb.isLt
  simp only [addressed, ps1Address_eq, ps1AddressGood, ps1ByteAddress, config_ps1MaxSector,
    BitVec.toNat_ofNat]
  rw [Nat.mod_eq_of_lt (show _ < 2 ^ 32 by omega)]
  simp only [BitVec.ofNat_mul]

theorem bufferOf_toList (l : List Byte) (h : l.length = 128) : (bufferOf l).toList = l := by
  apply List.ext_getElem
  · simp [h]
  · intro i h1 h2
    simp only [bufferOf, List.getD_eq_getElem?_getD, Vector.toList_mk, List.getElem_map, List.getElem_range]
    rw [List.getElem?_eq_getElem h2]
    rfl

theorem readPosition_data (i : Fin 128) : readPosition (10 + i.val) = .data i := by
  unfold readPosition
  rw [dif_pos (by omega)]
  simp

theorem readPosition_past (pos : Nat) (h : 139 < pos) : readPosition pos = .past := by
  simp (disch := omega) only [readPosition, dif_neg, if_neg]

theorem writePosition_data (i : Fin 128) : writePosition (6 + i.val) = .data i := by
  unfold writePosition
  rw [dif_pos (by omega)]
  simp

theorem writePosition_past (pos : Nat) (h : 137 < pos) : writePosition pos = .past := by
  simp (disch := omega) only [writePosition, dif_neg, if_neg]

/-- Position 5 of both layouts. -/
theorem ps1TakeLSB_eq (b : Byte) (s : State) :
    ps1TakeLSB p q b s =
      setPs1 { s.blk.ps1 with addrLSB := b, checksum := seed s s.blk.ps1.addrMSB b }
        (setSlotRec p q (addressed (slotRec p q s) s.blk.ps1.addrMSB b) s) := by
  rw [← addressed_eq]
  rfl

/-! ### Read -/

/-- The byte address of the sector that the bytes sent so far address. -/
def readAddr (l : List Byte) : Word := BitVec.ofNat 32 (128 * (256 * (l.getD 2 0).toNat + (l.getD 3 0).toNat))

/-- The sector that the bytes sent so far address, as the storage holds it. -/
def readBytes (l : List Byte) : List Byte :=
  cardReadBytes p q (readAddr l) 128 s0

/-- The calls that read 128 bytes at an address so far. -/
def fetches (addr : Word) (s : State) : Nat := s.events.count (.cardRead p q addr 128)

/-- The replies of the Read layout from position 2 on (R75). -/
def readLayout (l : List Byte) : List Byte :=
  [0x5A, 0x5D, 0x00, 0x00, 0x5C, 0x5D, l.getD 2 0, l.getD 3 0] ++ readBytes p q s0 l
    ++ [seed s0 (l.getD 2 0) (l.getD 3 0) ^^^ xorOf (readBytes p q s0 l), 0x47]

/-- The machine after the bytes l of a Read that began in s0. -/
structure ReadAt (l : List Byte) (s : State) : Prop where
  cursor : s.blk.ps1.cursor = 2 + l.length
  msb : 3 ≤ l.length → s.blk.ps1.addrMSB = l.getD 2 0
  lsb : 4 ≤ l.length → s.blk.ps1.addrLSB = l.getD 3 0
  slot : ∀ p' q', slotRec p' q' s =
    if p' = p ∧ q' = q ∧ 4 ≤ l.length then addressed (slotRec p' q' s0) (l.getD 2 0) (l.getD 3 0)
    else slotRec p' q' s0
  sum : 4 ≤ l.length → s.blk.ps1.checksum =
    seed s0 (l.getD 2 0) (l.getD 3 0) ^^^ xorOf ((readBytes p q s0 l).take (l.length - 8))
  buf : 9 ≤ l.length → s.blk.ps1.buf.toList = readBytes p q s0 l
  free : l.length ≤ 8 → s.freeCount = s0.freeCount
  fetched : ∀ addr, fetches p q addr s =
    fetches p q addr s0 + if 9 ≤ l.length ∧ addr = readAddr l then 1 else 0
  cards : s.cards = s0.cards
  card : s.inputs.card = s0.inputs.card
  params : s.params = s0.params

/-- Before the first byte. -/
theorem ReadAt.start (s : State) (hc : s.blk.ps1.cursor = 2) (hm : s.blk.mcd = s0.blk.mcd)
    (hf : s.freeCount = s0.freeCount) (he : ∀ addr, fetches p q addr s = fetches p q addr s0)
    (hd : s.cards = s0.cards) (hi : s.inputs.card = s0.inputs.card) (hp : s.params = s0.params) :
    ReadAt p q s0 [] s where
  cursor := hc
  msb h := absurd h (by decide)
  lsb h := absurd h (by decide)
  slot p' q' := by simp [slotRec, hm]
  sum h := absurd h (by decide)
  buf h := absurd h (by decide)
  free _ := hf
  fetched addr := by simp [he]
  cards := hd
  card := hi
  params := hp

/-- It depends on the PS1 record, slot records, card memory, inputs, parameters, the free-value counter and the read
calls alone. -/
theorem ReadAt.congr {l : List Byte} {s t : State} (h : ReadAt p q s0 l s) (h1 : t.blk.ps1 = s.blk.ps1)
    (hm : t.blk.mcd = s.blk.mcd) (hf : t.freeCount = s.freeCount) (he : ∀ addr, fetches p q addr t = fetches p q addr s)
    (hd : t.cards = s.cards) (hi : t.inputs.card = s.inputs.card) (hp : t.params = s.params) :
    ReadAt p q s0 l t where
  cursor := by rw [h1]; exact h.cursor
  msb := by rw [h1]; exact h.msb
  lsb := by rw [h1]; exact h.lsb
  slot p' q' := by
    rw [← h.slot p' q']
    simp [slotRec, hm]
  sum := by rw [h1]; exact h.sum
  buf := by rw [h1]; exact h.buf
  free := by rw [hf]; exact h.free
  fetched addr := by rw [he]; exact h.fetched addr
  cards := hd.trans h.cards
  card := hi.trans h.card
  params := hp.trans h.params

theorem getD_append_left (l : List Byte) (b : Byte) (k : Nat) (h : k < l.length) : (l ++ [b]).getD k 0 = l.getD k 0 := by
  simp [List.getD_eq_getElem?_getD, List.getElem?_append_left h]

theorem getD_append_last (l : List Byte) (b : Byte) : (l ++ [b]).getD l.length 0 = b := by
  simp [List.getD_eq_getElem?_getD]

theorem readAddr_append (l : List Byte) (b : Byte) (h : 4 ≤ l.length) : readAddr (l ++ [b]) = readAddr l := by
  rw [readAddr, readAddr, getD_append_left l b 2 (by omega), getD_append_left l b 3 (by omega)]

theorem readBytes_append (l : List Byte) (b : Byte) (h : 4 ≤ l.length) :
    readBytes p q s0 (l ++ [b]) = readBytes p q s0 l := by
  rw [readBytes, readBytes, readAddr_append l b h]

@[simp] theorem length_readBytes (l : List Byte) : (readBytes p q s0 l).length = 128 := by
  simp [readBytes]

theorem xorOf_append (l : List Byte) (b : Byte) : xorOf (l ++ [b]) = xorOf l ^^^ b := by
  simp [xorOf]

theorem getElem_of_toList {n : Nat} {v : Vector Byte n} {l : List Byte} (h : v.toList = l) (i : Nat) (hi : i < n) :
    v[i] = l.getD i 0 := by
  subst h
  simp [List.getD_eq_getElem?_getD, hi]

theorem take_readBytes (l : List Byte) (n m : Nat) (h : n = m ∨ 128 ≤ n ∧ 128 ≤ m) :
    (readBytes p q s0 l).take n = (readBytes p q s0 l).take m := by
  rcases h with rfl | ⟨hn, hm⟩
  · rfl
  · rw [List.take_of_length_le (by simpa using hn), List.take_of_length_le (by simpa using hm)]

/-- A byte that moves the cursor and nothing else the invariant speaks of. -/
theorem ReadAt.plain {l : List Byte} {s t : State} (h : ReadAt p q s0 l s) (b : Byte)
    (hl : l.length ≤ 1 ∨ (4 ≤ l.length ∧ l.length ≤ 7) ∨ 136 ≤ l.length)
    (h1 : t.blk.ps1 = { s.blk.ps1 with cursor := s.blk.ps1.cursor + 1 }) (hm : t.blk.mcd = s.blk.mcd)
    (hf : l.length ≤ 7 → t.freeCount = s.freeCount) (he : ∀ addr, fetches p q addr t = fetches p q addr s)
    (hd : t.cards = s.cards) (hi : t.inputs.card = s.inputs.card) (hp : t.params = s.params) :
    ReadAt p q s0 (l ++ [b]) t where
  cursor := by
    rw [h1, List.length_append, List.length_singleton, ← Nat.add_assoc, ← h.cursor]
  msb hn := by
    rw [List.length_append, List.length_singleton] at hn
    rw [h1, getD_append_left l b 2 (by omega)]
    exact h.msb (by omega)
  lsb hn := by
    rw [List.length_append, List.length_singleton] at hn
    rw [h1, getD_append_left l b 3 (by omega)]
    exact h.lsb (by omega)
  slot p' q' := by
    rw [List.length_append, List.length_singleton]
    have e : slotRec p' q' t = slotRec p' q' s := by simp [slotRec, hm]
    rw [e, h.slot]
    by_cases h4 : 4 ≤ l.length
    · rw [getD_append_left l b 2 (by omega), getD_append_left l b 3 (by omega)]
      simp [h4, show 4 ≤ l.length + 1 by omega]
    · simp [h4, show ¬4 ≤ l.length + 1 by omega]
  sum hn := by
    rw [List.length_append, List.length_singleton] at hn ⊢
    rw [h1, getD_append_left l b 2 (by omega), getD_append_left l b 3 (by omega), readBytes_append p q s0 l b (by omega),
      take_readBytes p q s0 l (l.length + 1 - 8) (l.length - 8) (by omega)]
    exact h.sum (by omega)
  buf hn := by
    rw [List.length_append, List.length_singleton] at hn
    rw [h1, readBytes_append p q s0 l b (by omega)]
    exact h.buf (by omega)
  free hn := by
    rw [List.length_append, List.length_singleton] at hn
    rw [hf (by omega)]
    exact h.free (by omega)
  fetched addr := by
    rw [he, h.fetched, List.length_append, List.length_singleton]
    rcases Nat.lt_or_ge l.length 8 with hlt | hge
    · rw [if_neg (by omega), if_neg (by omega)]
    · rw [readAddr_append l b (by omega)]
      simp [show 9 ≤ l.length by omega, show 9 ≤ l.length + 1 by omega]
  cards := hd.trans h.cards
  card := hi.trans h.card
  params := hp.trans h.params

/-- The most significant address byte. -/
theorem ReadAt.takeMSB {l : List Byte} {s t : State} (h : ReadAt p q s0 l s) (b : Byte) (hl : l.length = 2)
    (h1 : t.blk.ps1 = { s.blk.ps1 with cursor := s.blk.ps1.cursor + 1, addrMSB := b }) (hm : t.blk.mcd = s.blk.mcd)
    (hf : t.freeCount = s.freeCount)
    (he : ∀ addr, fetches p q addr t = fetches p q addr s) (hd : t.cards = s.cards) (hi : t.inputs.card = s.inputs.card)
    (hp : t.params = s.params) : ReadAt p q s0 (l ++ [b]) t where
  cursor := by
    rw [h1, List.length_append, List.length_singleton, ← Nat.add_assoc, ← h.cursor]
  msb _ := by
    have := getD_append_last l b
    rw [hl] at this
    rw [h1, this]
  lsb hn := by
    rw [List.length_append, List.length_singleton] at hn
    omega
  slot p' q' := by
    have e : slotRec p' q' t = slotRec p' q' s := by simp [slotRec, hm]
    rw [e, h.slot]
    simp [hl]
  sum hn := by
    rw [List.length_append, List.length_singleton] at hn
    omega
  buf hn := by
    rw [List.length_append, List.length_singleton] at hn
    omega
  free _ := by rw [hf, h.free (by omega)]
  fetched addr := by
    rw [he, h.fetched, if_neg (by omega), if_neg (by simp [hl])]
  cards := hd.trans h.cards
  card := hi.trans h.card
  params := hp.trans h.params

/-- The least significant address byte. -/
theorem ReadAt.takeLSB {l : List Byte} {s t : State} (h : ReadAt p q s0 l s) (b : Byte) (hl : l.length = 3)
    (h1 : t.blk.ps1 =
      { s.blk.ps1 with
        cursor := s.blk.ps1.cursor + 1
        addrLSB := b
        checksum := seed s s.blk.ps1.addrMSB b })
    (hm : ∀ p' q', slotRec p' q' t =
      if p' = p ∧ q' = q then addressed (slotRec p' q' s) s.blk.ps1.addrMSB b else slotRec p' q' s)
    (hf : t.freeCount = s.freeCount)
    (he : ∀ addr, fetches p q addr t = fetches p q addr s) (hd : t.cards = s.cards) (hi : t.inputs.card = s.inputs.card)
    (hp : t.params = s.params) : ReadAt p q s0 (l ++ [b]) t := by
  have hb := getD_append_last l b
  rw [hl] at hb
  have ha : (l ++ [b]).getD 2 0 = s.blk.ps1.addrMSB := by
    rw [getD_append_left l b 2 (by omega)]
    exact (h.msb (by omega)).symm
  have hs : ∀ x y, seed s x y = seed s0 x y := by
    intro x y
    rw [seed, seed, h.params]
  exact
  { cursor := by rw [h1, List.length_append, List.length_singleton, ← Nat.add_assoc, ← h.cursor]
    msb := fun _ => by rw [h1, ha]
    lsb := fun _ => by rw [h1, hb]
    slot := fun p' q' => by
      rw [hm, h.slot, ha, hb]
      simp [hl]
    sum := fun _ => by
      rw [h1, ha, hb, hs]
      simp [hl, xorOf]
    buf := fun hn => by
      rw [List.length_append, List.length_singleton] at hn
      omega
    free := fun _ => by rw [hf, h.free (by omega)]
    fetched := fun addr => by rw [he, h.fetched, if_neg (by omega), if_neg (by simp [hl])]
    cards := hd.trans h.cards
    card := hi.trans h.card
    params := hp.trans h.params }

/-- A data byte. -/
theorem ReadAt.data {l : List Byte} {s t : State} (h : ReadAt p q s0 l s) (b : Byte) (i : Fin 128)
    (hl : l.length = 8 + i.val) (buf : Vector Byte 128) (hb : buf.toList = readBytes p q s0 l)
    (h1 : t.blk.ps1 =
      { s.blk.ps1 with
        cursor := s.blk.ps1.cursor + 1
        buf := buf
        checksum := s.blk.ps1.checksum ^^^ buf[i] })
    (hm : t.blk.mcd = s.blk.mcd)
    (he : ∀ addr, fetches p q addr t = fetches p q addr s + if i.val = 0 ∧ addr = readAddr l then 1 else 0) (hd : t.cards = s.cards) (hi : t.inputs.card = s.inputs.card)
    (hp : t.params = s.params) : ReadAt p q s0 (l ++ [b]) t where
  cursor := by
    rw [h1, List.length_append, List.length_singleton, ← Nat.add_assoc, ← h.cursor]
  msb _ := by
    rw [h1, getD_append_left l b 2 (by omega)]
    exact h.msb (by omega)
  lsb _ := by
    rw [h1, getD_append_left l b 3 (by omega)]
    exact h.lsb (by omega)
  slot p' q' := by
    have e : slotRec p' q' t = slotRec p' q' s := by simp [slotRec, hm]
    rw [e, h.slot, getD_append_left l b 2 (by omega), getD_append_left l b 3 (by omega)]
    simp [hl, show 4 ≤ 8 + i.val by omega, show 4 ≤ 8 + i.val + 1 by omega]
  sum _ := by
    have e : (readBytes p q s0 l).take (i.val + 1) = (readBytes p q s0 l).take i.val ++ [buf[i]] := by
      have hlt : i.val < (readBytes p q s0 l).length := by simp
      rw [List.take_succ_eq_append_getElem hlt]
      congr 2
      simp only [← hb, Vector.getElem_toList]
      rfl
    rw [h1, getD_append_left l b 2 (by omega), getD_append_left l b 3 (by omega), readBytes_append p q s0 l b (by omega),
      List.length_append, List.length_singleton, show l.length + 1 - 8 = i.val + 1 by omega, e, xorOf_append,
      ← BitVec.xor_assoc]
    have := h.sum (by omega)
    rw [show l.length - 8 = i.val by omega] at this
    rw [← this]
  buf _ := by rw [h1, readBytes_append p q s0 l b (by omega), hb]
  free hn := by
    rw [List.length_append, List.length_singleton] at hn
    omega
  fetched addr := by
    rw [he, h.fetched, List.length_append, List.length_singleton, readAddr_append l b (by omega), hl]
    by_cases h0 : i.val = 0
    · simp [h0]
    · simp [h0, show 9 ≤ 8 + i.val by omega, show 9 ≤ 8 + i.val + 1 by omega]
  cards := hd.trans h.cards
  card := hi.trans h.card
  params := hp.trans h.params

/-- The address of the fetch of position 10. -/
theorem ReadAt.transferAddr {l : List Byte} {s : State} (h : ReadAt p q s0 l s) (hl : 4 ≤ l.length) :
    (slotRec p q s).transferAddr = readAddr l := by
  rw [h.slot, if_pos ⟨rfl, rfl, hl⟩]
  rfl

/-- What the storage answers at the fetch of position 10. -/
theorem ReadAt.answer {l : List Byte} {s : State} (h : ReadAt p q s0 l s) (hl : l.length = 8) :
    cardReadBytes p q (slotRec p q s).transferAddr 128 s = readBytes p q s0 l := by
  rw [h.transferAddr p q s0 (by omega), readBytes]
  unfold cardReadBytes cardByte cardMem cardInput
  rw [h.cards, h.card, h.free (by omega)]

/-- What one byte of a Read changes at each position, and its reply. -/
theorem ReadAt.step {l : List Byte} {s : State} (h : ReadAt p q s0 l s) (b : Byte) :
    ReadAt p q s0 (l ++ [b]) (ps1Read p q b s).2
      ∧ (l.length < 138 → (readLayout p q s0 (l ++ [b]))[l.length]? = some (ps1Read p q b s).1) := by
  have hc := h.cursor
  unfold ps1Read
  dsimp only
  rw [hc]
  rcases Nat.lt_or_ge l.length 8 with h8 | h8
  · rcases (show l.length = 0 ∨ l.length = 1 ∨ l.length = 2 ∨ l.length = 3 ∨ l.length = 4 ∨ l.length = 5
      ∨ l.length = 6 ∨ l.length = 7 by omega) with hl | hl | hl | hl | hl | hl | hl | hl <;> rw [hl]
    · exact ⟨h.plain p q s0 b (by omega) rfl rfl (fun _ => rfl) (fun _ => rfl) rfl rfl rfl, fun _ => rfl⟩
    · exact ⟨h.plain p q s0 b (by omega) rfl rfl (fun _ => rfl) (fun _ => rfl) rfl rfl rfl, fun _ => rfl⟩
    · exact ⟨h.takeMSB p q s0 b hl rfl rfl rfl (fun _ => rfl) rfl rfl rfl, fun _ => rfl⟩
    · refine ⟨?_, fun _ => rfl⟩
      show ReadAt p q s0 (l ++ [b]) (ps1Ack (ps1TakeLSB p q b (ps1Advance s)))
      rw [ps1TakeLSB_eq]
      refine h.takeLSB p q s0 b hl rfl (fun p' q' => ?_) rfl (fun _ => rfl) rfl rfl rfl
      show slotRec p' q' (setSlotRec p q (addressed (slotRec p q s) s.blk.ps1.addrMSB b) s) = _
      rw [slotRec_setSlotRec]
      by_cases hpq : p = p' ∧ q = q'
      · obtain ⟨rfl, rfl⟩ := hpq
        simp
      · rw [if_neg hpq, if_neg fun e => hpq ⟨e.1.symm, e.2.symm⟩]
    · exact ⟨h.plain p q s0 b (by omega) rfl rfl (fun _ => rfl) (fun _ => rfl) rfl rfl rfl, fun _ => rfl⟩
    · exact ⟨h.plain p q s0 b (by omega) rfl rfl (fun _ => rfl) (fun _ => rfl) rfl rfl rfl, fun _ => rfl⟩
    · refine ⟨h.plain p q s0 b (by omega) rfl rfl (fun _ => rfl) (fun _ => rfl) rfl rfl rfl, fun _ => ?_⟩
      show some ((l ++ [b]).getD 2 0) = some s.blk.ps1.addrMSB
      rw [getD_append_left l b 2 (by omega), h.msb (by omega)]
    · refine ⟨h.plain p q s0 b (by omega) rfl rfl (fun _ => rfl) (fun _ => rfl) rfl rfl rfl, fun _ => ?_⟩
      show some ((l ++ [b]).getD 3 0) = some s.blk.ps1.addrLSB
      rw [getD_append_left l b 3 (by omega), h.lsb (by omega)]
  · rcases Nat.lt_or_ge l.length 136 with h136 | h136
    · obtain ⟨i, hl⟩ : ∃ i : Fin 128, l.length = 8 + i.val := ⟨⟨l.length - 8, by omega⟩, by simp; omega⟩
      rw [show 2 + l.length = 10 + i.val by omega, readPosition_data]
      have key : ∀ buf : Vector Byte 128, buf.toList = readBytes p q s0 l →
          (readLayout p q s0 (l ++ [b]))[l.length]? = some buf[i] := by
        intro buf hb
        have hlt : i.val < (readBytes p q s0 l).length := by simp
        have e : (readBytes p q s0 l)[i.val]? = some buf[i] := by
          rw [List.getElem?_eq_getElem hlt]
          simp only [← hb, Vector.getElem_toList]
          rfl
        rw [readLayout, readBytes_append p q s0 l b (by omega), hl, List.append_assoc,
          List.getElem?_append_right (by simp), List.getElem?_append_left (by simp), ← e]
        simp
      unfold ps1ReadData
      dsimp only
      by_cases hi : i.val = 0
      · have hb : (bufferOf (cardReadBytes p q (slotRec p q s).transferAddr 128 s)).toList = readBytes p q s0 l := by
          rw [bufferOf_toList _ (by simp), h.answer p q s0 (by omega)]
        rw [if_pos hi]
        refine ⟨h.data p q s0 b i hl _ hb rfl rfl (fun addr => ?_) rfl rfl rfl, fun _ => key _ hb⟩
        show (s.events ++ [Event.cardRead p q (slotRec p q s).transferAddr 128]).count _ = s.events.count _ + _
        rw [h.transferAddr p q s0 (by omega), List.count_append]
        congr 1
        by_cases ha : addr = readAddr l
        · rw [if_pos ⟨hi, ha⟩, ha, List.count_singleton_self]
        · rw [if_neg fun e => ha e.2, List.count_eq_zero_of_not_mem]
          intro hm
          exact ha (by injection List.mem_singleton.mp hm)
      · rw [if_neg hi]
        have hb := h.buf (by omega)
        refine ⟨h.data p q s0 b i hl _ hb rfl rfl (fun addr => ?_) rfl rfl rfl, fun _ => key _ hb⟩
        rw [if_neg (by omega)]
        rfl
    · rcases (show l.length = 136 ∨ l.length = 137 ∨ 138 ≤ l.length by omega) with hl | hl | hl
      · rw [hl]
        refine ⟨h.plain p q s0 b (by omega) rfl rfl (fun _ => rfl) (fun _ => rfl) rfl rfl rfl, fun _ => ?_⟩
        show _ = some s.blk.ps1.checksum
        rw [h.sum (by omega), hl, List.take_of_length_le (by simp), readLayout, readBytes_append p q s0 l b (by omega),
          getD_append_left l b 2 (by omega), getD_append_left l b 3 (by omega),
          List.getElem?_append_right (by simp)]
        simp
      · rw [hl]
        refine ⟨h.plain p q s0 b (by omega) rfl rfl (fun _ => rfl) (fun _ => rfl) rfl rfl rfl, fun _ => ?_⟩
        show _ = some config.ps1Good
        rw [readLayout, List.getElem?_append_right (by simp)]
        simp [config_ps1Good]
      · rw [readPosition_past _ (by omega)]
        exact ⟨h.plain p q s0 b (by omega) rfl rfl (fun hn => absurd hn (by omega)) (fun _ => rfl) rfl rfl rfl, fun hn => absurd hn (by omega)⟩

/-- The layout's replies up to a byte do not depend on the bytes after it. -/
theorem readLayout_append (l : List Byte) (b : Byte) :
    (readLayout p q s0 (l ++ [b])).take l.length = (readLayout p q s0 l).take l.length := by
  rcases Nat.lt_or_ge l.length 4 with h | h
  · rcases (show l.length = 0 ∨ l.length = 1 ∨ l.length = 2 ∨ l.length = 3 by omega) with hl | hl | hl | hl <;>
      rw [hl] <;> rfl
  · rw [readLayout, readLayout, readBytes_append p q s0 l b h, getD_append_left l b 2 (by omega),
      getD_append_left l b 3 (by omega)]

/-- The first n + 1 bytes of a list whose byte n is known. -/
theorem take_succ_of_getElem? (l : List Byte) (n : Nat) (x : Byte) (h : l[n]? = some x) :
    l.take (n + 1) = l.take n ++ [x] := by
  rw [List.take_add_one, h]
  rfl

/-- The replies a handler gives to a list of bytes, and the state after it. -/
def ps1Run (handler : Byte → State → Byte × State) : List Byte → State → List Byte × State
  | [], s => ([], s)
  | b :: l, s => ((handler b s).1 :: (ps1Run handler l (handler b s).2).1, (ps1Run handler l (handler b s).2).2)

theorem ps1Run_append (handler : Byte → State → Byte × State) (l : List Byte) (b : Byte) (s : State) :
    ps1Run handler (l ++ [b]) s =
      ((ps1Run handler l s).1 ++ [(handler b (ps1Run handler l s).2).1], (handler b (ps1Run handler l s).2).2) := by
  induction l generalizing s with
  | nil => rfl
  | cons c l ih => simp [ps1Run, ih]

@[simp] theorem length_ps1Run (handler : Byte → State → Byte × State) (l : List Byte) (s : State) :
    (ps1Run handler l s).1.length = l.length := by
  induction l generalizing s with
  | nil => rfl
  | cons c l ih => simp [ps1Run, ih]

/-- A Read run from its start, by the handler within whatever each byte does beside it: the invariant, and the replies as
far as the layout goes. -/
theorem ps1Run_read (handler : Byte → State → Byte × State)
    (hh : ∀ (l : List Byte) (b : Byte) (s : State), ReadAt p q s0 l s →
      ReadAt p q s0 (l ++ [b]) (handler b s).2
        ∧ (l.length < 138 → (readLayout p q s0 (l ++ [b]))[l.length]? = some (handler b s).1))
    (l : List Byte) (s : State) (h : ReadAt p q s0 [] s) :
    ReadAt p q s0 l (ps1Run handler l s).2
      ∧ (ps1Run handler l s).1.take 138 = (readLayout p q s0 l).take l.length := by
  induction l using List.reverseRecOn with
  | nil => exact ⟨h, rfl⟩
  | append_singleton l b ih =>
    obtain ⟨hr, ht⟩ := ih
    obtain ⟨hs, hl⟩ := hh l b _ hr
    rw [ps1Run_append]
    refine ⟨hs, ?_⟩
    rw [List.length_append, List.length_singleton]
    rcases Nat.lt_or_ge l.length 138 with h8 | h8
    · rw [take_succ_of_getElem? _ _ _ (hl h8), readLayout_append, ← ht]
      rw [List.take_of_length_le (by simp; omega), List.take_of_length_le (by simp; omega)]
    · rw [List.take_append_of_le_length (by simpa using h8), ht]
      rw [List.take_of_length_le (by simp [readLayout]; omega), List.take_of_length_le (by simp [readLayout]; omega)]
      rw [readLayout, readLayout, readBytes_append p q s0 l b (by omega), getD_append_left l b 2 (by omega),
        getD_append_left l b 3 (by omega)]

/-! ### Write -/

/-- The 128 data bytes as far as they were sent. -/
def writeData (l : List Byte) : List Byte := (l.drop 4).take 128

/-- The sector the bytes sent so far address. -/
def writeSector (l : List Byte) : Nat := 256 * (l.getD 2 0).toNat + (l.getD 3 0).toNat

/-- The status of the last byte (R258). -/
def writeStatus (l : List Byte) : Byte :=
  if l.getD 132 0 ≠ seed s0 (l.getD 2 0) (l.getD 3 0) ^^^ xorOf (writeData l) then 0x4E
  else if 0x3FF < writeSector l then 0xFF else 0x47

/-- The 128 bytes have been saved: all were sent, and the status was good. -/
def writeSaved (l : List Byte) : Bool := decide (136 ≤ l.length) && writeStatus s0 l == 0x47

/-- The replies of the Write layout from position 2 on (R75). -/
def writeLayout (l : List Byte) : List Byte :=
  [0x5A, 0x5D, 0x00, 0x00] ++ List.replicate 128 0x00 ++ [0x00, 0x5C, 0x5D, writeStatus s0 l]

/-- The addressed slot record after the bytes l. -/
def writeRecord (l : List Byte) (r : SlotRecord) : SlotRecord :=
  if l.length < 4 then r
  else if writeSaved s0 l then { addressed r (l.getD 2 0) (l.getD 3 0) with flag := r.flag &&& 0xF7 }
  else addressed r (l.getD 2 0) (l.getD 3 0)

/-- Card memory after the bytes l. -/
def writeCards (l : List Byte) : Vector (Vector Memory 4) 2 :=
  if writeSaved s0 l then (cardSave p q (BitVec.ofNat 32 (128 * writeSector l)) (writeData l) s0).cards else s0.cards

/-- The machine after the bytes l of a Write that began in s0. -/
structure WriteAt (l : List Byte) (s : State) : Prop where
  cursor : s.blk.ps1.cursor = 2 + l.length
  msb : 3 ≤ l.length → s.blk.ps1.addrMSB = l.getD 2 0
  slot : ∀ p' q', slotRec p' q' s = if p' = p ∧ q' = q then writeRecord s0 l (slotRec p q s0) else slotRec p' q' s0
  sum : 4 ≤ l.length → s.blk.ps1.checksum = seed s0 (l.getD 2 0) (l.getD 3 0) ^^^ xorOf (writeData l)
  buf : 4 ≤ l.length → s.blk.ps1.buf.toList.take (l.length - 4) = writeData l
  expected : 133 ≤ l.length → s.blk.ps1.expected = l.getD 132 0
  cards : s.cards = writeCards p q s0 l
  card : s.inputs.card = s0.inputs.card
  params : s.params = s0.params

/-- Before the first byte. -/
theorem WriteAt.start (s : State) (hc : s.blk.ps1.cursor = 2) (hm : s.blk.mcd = s0.blk.mcd)
    (hd : s.cards = s0.cards) (hi : s.inputs.card = s0.inputs.card) (hp : s.params = s0.params) :
    WriteAt p q s0 [] s where
  cursor := hc
  msb h := absurd h (by decide)
  slot p' q' := by
    simp only [slotRec, hm, writeRecord, List.length_nil, Nat.zero_lt_succ, if_true]
    split
    · next h => rw [h.1, h.2]
    · rfl
  sum h := absurd h (by decide)
  buf h := absurd h (by decide)
  expected h := absurd h (by decide)
  cards := by
    rw [hd]
    rfl
  card := hi
  params := hp

/-- It depends on the PS1 record, slot records, card memory, inputs and parameters alone. -/
theorem WriteAt.congr {l : List Byte} {s t : State} (h : WriteAt p q s0 l s) (h1 : t.blk.ps1 = s.blk.ps1)
    (hm : t.blk.mcd = s.blk.mcd) (hd : t.cards = s.cards) (hi : t.inputs.card = s.inputs.card)
    (hp : t.params = s.params) : WriteAt p q s0 l t where
  cursor := by rw [h1]; exact h.cursor
  msb := by rw [h1]; exact h.msb
  slot p' q' := by
    rw [← h.slot p' q']
    simp [slotRec, hm]
  sum := by rw [h1]; exact h.sum
  buf := by rw [h1]; exact h.buf
  expected := by rw [h1]; exact h.expected
  cards := hd.trans h.cards
  card := hi.trans h.card
  params := hp.trans h.params

theorem writeData_append_short (l : List Byte) (b : Byte) (h : l.length < 4) : writeData (l ++ [b]) = writeData l := by
  rw [writeData, writeData, List.drop_eq_nil_of_le (by simp; omega), List.drop_eq_nil_of_le (by omega)]

theorem writeData_append_data (l : List Byte) (b : Byte) (h : 4 ≤ l.length) (h' : l.length < 132) :
    writeData (l ++ [b]) = writeData l ++ [b] := by
  rw [writeData, writeData, List.drop_append_of_le_length h, List.take_of_length_le (by simp; omega),
    List.take_of_length_le (by simp; omega)]

theorem writeData_append_full (l : List Byte) (b : Byte) (h : 132 ≤ l.length) : writeData (l ++ [b]) = writeData l := by
  rw [writeData, writeData, List.drop_append_of_le_length (by omega), List.take_append_of_le_length (by simp; omega)]

theorem length_writeData (l : List Byte) (h : 132 ≤ l.length) : (writeData l).length = 128 := by
  simp [writeData]
  omega

theorem writeSector_append (l : List Byte) (b : Byte) (h : 4 ≤ l.length) : writeSector (l ++ [b]) = writeSector l := by
  rw [writeSector, writeSector, getD_append_left l b 2 (by omega), getD_append_left l b 3 (by omega)]

theorem writeStatus_append (l : List Byte) (b : Byte) (h : 133 ≤ l.length) :
    writeStatus s0 (l ++ [b]) = writeStatus s0 l := by
  rw [writeStatus, writeStatus, writeSector_append l b (by omega), writeData_append_full l b (by omega),
    getD_append_left l b 2 (by omega), getD_append_left l b 3 (by omega), getD_append_left l b 132 (by omega)]

theorem writeSaved_append (l : List Byte) (b : Byte) (h : l.length ≠ 135) :
    writeSaved s0 (l ++ [b]) = writeSaved s0 l := by
  rw [writeSaved, writeSaved, List.length_append, List.length_singleton]
  rcases Nat.lt_or_ge l.length 135 with hl | hl
  · rw [decide_eq_false (by omega), decide_eq_false (by omega)]
    rfl
  · rw [decide_eq_true (by omega), decide_eq_true (by omega), writeStatus_append s0 l b (by omega)]

theorem writeRecord_append (l : List Byte) (b : Byte) (h : l.length ≠ 135) (h3 : l.length ≠ 3) (r : SlotRecord) :
    writeRecord s0 (l ++ [b]) r = writeRecord s0 l r := by
  rw [writeRecord, writeRecord, List.length_append, List.length_singleton, writeSaved_append s0 l b h]
  rcases Nat.lt_or_ge l.length 4 with hl | hl
  · rw [if_pos (by omega), if_pos hl]
  · rw [if_neg (show ¬l.length + 1 < 4 by omega), if_neg (show ¬l.length < 4 by omega),
      getD_append_left l b 2 (by omega), getD_append_left l b 3 (by omega)]

theorem writeCards_append (l : List Byte) (b : Byte) (h : l.length ≠ 135) :
    writeCards p q s0 (l ++ [b]) = writeCards p q s0 l := by
  rw [writeCards, writeCards, writeSaved_append s0 l b h]
  cases hs : writeSaved s0 l
  · rfl
  · simp only [writeSaved, Bool.and_eq_true, decide_eq_true_eq] at hs
    rw [writeSector_append l b (by omega), writeData_append_full l b (by omega)]

/-- A byte that is no address and no data, and not the last. -/
theorem WriteAt.plain {l : List Byte} {s t : State} (h : WriteAt p q s0 l s) (b : Byte)
    (hl : l.length ≤ 2 ∨ (132 ≤ l.length ∧ l.length ≠ 135))
    (h1 : t.blk.ps1 =
      { s.blk.ps1 with
        cursor := s.blk.ps1.cursor + 1
        addrMSB := t.blk.ps1.addrMSB
        expected := t.blk.ps1.expected })
    (ha : t.blk.ps1.addrMSB = if l.length = 2 then b else s.blk.ps1.addrMSB)
    (he : t.blk.ps1.expected = if l.length = 132 then b else s.blk.ps1.expected)
    (hm : t.blk.mcd = s.blk.mcd) (hd : t.cards = s.cards) (hi : t.inputs.card = s.inputs.card)
    (hp : t.params = s.params) : WriteAt p q s0 (l ++ [b]) t where
  cursor := by
    rw [h1, List.length_append, List.length_singleton, ← Nat.add_assoc, ← h.cursor]
  msb hn := by
    rw [List.length_append, List.length_singleton] at hn
    rw [ha]
    split
    · next h2 =>
      have := getD_append_last l b
      rw [h2] at this
      rw [this]
    · rw [getD_append_left l b 2 (by omega)]
      exact h.msb (by omega)
  slot p' q' := by
    have e : slotRec p' q' t = slotRec p' q' s := by simp [slotRec, hm]
    rw [e, h.slot, writeRecord_append s0 l b (by omega) (by omega)]
  sum hn := by
    rw [List.length_append, List.length_singleton] at hn
    rw [h1, getD_append_left l b 2 (by omega), getD_append_left l b 3 (by omega), writeData_append_full l b (by omega)]
    exact h.sum (by omega)
  buf hn := by
    rw [List.length_append, List.length_singleton] at hn
    rw [h1, writeData_append_full l b (by omega), ← h.buf (by omega), List.length_append,
      List.length_singleton, List.take_of_length_le (by simp; omega), List.take_of_length_le (by simp; omega)]
  expected hn := by
    rw [List.length_append, List.length_singleton] at hn
    rw [he]
    split
    · next h2 =>
      have := getD_append_last l b
      rw [h2] at this
      rw [this]
    · rw [getD_append_left l b 132 (by omega)]
      exact h.expected (by omega)
  cards := by rw [hd, h.cards, writeCards_append p q s0 l b (by omega)]
  card := hi.trans h.card
  params := hp.trans h.params

/-- The least significant address byte. -/
theorem WriteAt.takeLSB {l : List Byte} {s t : State} (h : WriteAt p q s0 l s) (b : Byte) (hl : l.length = 3)
    (h1 : t.blk.ps1 =
      { s.blk.ps1 with
        cursor := s.blk.ps1.cursor + 1
        addrLSB := b
        checksum := seed s s.blk.ps1.addrMSB b })
    (hm : ∀ p' q', slotRec p' q' t =
      if p' = p ∧ q' = q then addressed (slotRec p' q' s) s.blk.ps1.addrMSB b else slotRec p' q' s)
    (hd : t.cards = s.cards) (hi : t.inputs.card = s.inputs.card) (hp : t.params = s.params) :
    WriteAt p q s0 (l ++ [b]) t := by
  have hb := getD_append_last l b
  rw [hl] at hb
  have ha : (l ++ [b]).getD 2 0 = s.blk.ps1.addrMSB := by
    rw [getD_append_left l b 2 (by omega)]
    exact (h.msb (by omega)).symm
  have hs : ∀ x y, seed s x y = seed s0 x y := by
    intro x y
    rw [seed, seed, h.params]
  have hw : writeData (l ++ [b]) = [] := by
    rw [writeData, List.drop_eq_nil_of_le (by simp [hl])]
    rfl
  have hv : writeSaved s0 (l ++ [b]) = false := by
    simp [writeSaved, hl]
  have hv' : writeSaved s0 l = false := by
    simp [writeSaved, hl]
  exact
  { cursor := by rw [h1, List.length_append, List.length_singleton, ← Nat.add_assoc, ← h.cursor]
    msb := fun _ => by rw [h1, ha]
    slot := fun p' q' => by
      rw [hm, h.slot]
      by_cases hpq : p' = p ∧ q' = q
      · simp only [hpq, and_self, if_true]
        rw [writeRecord, writeRecord, if_pos (by omega), if_neg (by simp [hl]), hv, ha, hb]
        rfl
      · simp only [hpq, if_false]
    sum := fun _ => by
      rw [h1, ha, hb, hs, hw]
      simp [xorOf]
    buf := fun _ => by
      rw [hw]
      simp [hl]
    expected := fun hn => by
      rw [List.length_append, List.length_singleton] at hn
      omega
    cards := by rw [hd, h.cards, writeCards_append p q s0 l b (by omega)]
    card := hi.trans h.card
    params := hp.trans h.params }

/-- A data byte. -/
theorem WriteAt.data {l : List Byte} {s t : State} (h : WriteAt p q s0 l s) (b : Byte) (i : Fin 128)
    (hl : l.length = 4 + i.val)
    (h1 : t.blk.ps1 =
      { s.blk.ps1 with
        cursor := s.blk.ps1.cursor + 1
        buf := s.blk.ps1.buf.set i b
        checksum := s.blk.ps1.checksum ^^^ b })
    (hm : t.blk.mcd = s.blk.mcd) (hd : t.cards = s.cards) (hi : t.inputs.card = s.inputs.card)
    (hp : t.params = s.params) : WriteAt p q s0 (l ++ [b]) t where
  cursor := by
    rw [h1, List.length_append, List.length_singleton, ← Nat.add_assoc, ← h.cursor]
  msb _ := by
    rw [h1, getD_append_left l b 2 (by omega)]
    exact h.msb (by omega)
  slot p' q' := by
    have e : slotRec p' q' t = slotRec p' q' s := by simp [slotRec, hm]
    rw [e, h.slot, writeRecord_append s0 l b (by omega) (by omega)]
  sum _ := by
    rw [h1, getD_append_left l b 2 (by omega), getD_append_left l b 3 (by omega),
      writeData_append_data l b (by omega) (by omega), xorOf_append, ← BitVec.xor_assoc, ← h.sum (by omega)]
  buf _ := by
    rw [h1, writeData_append_data l b (by omega) (by omega), ← h.buf (by omega), List.length_append,
      List.length_singleton, show l.length + 1 - 4 = i.val + 1 by omega, show l.length - 4 = i.val by omega,
      Vector.toList_set, List.take_set, List.take_add_one]
    simp
  expected hn := by
    rw [List.length_append, List.length_singleton] at hn
    omega
  cards := by rw [hd, h.cards, writeCards_append p q s0 l b (by omega)]
  card := hi.trans h.card
  params := hp.trans h.params

/-- The last byte, whatever it is: the status, and the save where the status is good. -/
theorem WriteAt.commit {l : List Byte} {s : State} (h : WriteAt p q s0 l s) (b : Byte) (hl : l.length = 135) :
    WriteAt p q s0 (l ++ [b]) (ps1WriteCommit p q (ps1Advance s)).2
      ∧ (ps1WriteCommit p q (ps1Advance s)).1 = writeStatus s0 (l ++ [b]) := by
  have e2 := getD_append_left l b 2 (by omega)
  have e3 := getD_append_left l b 3 (by omega)
  have e132 := getD_append_left l b 132 (by omega)
  have ed := writeData_append_full l b (by omega)
  have es := writeStatus_append s0 l b (by omega)
  have ev : writeSaved s0 (l ++ [b]) = (writeStatus s0 l == 0x47) := by
    rw [writeSaved, es, List.length_append, List.length_singleton, decide_eq_true (by omega), Bool.true_and]
  have ev' : writeSaved s0 l = false := by
    rw [writeSaved, decide_eq_false (by omega), Bool.false_and]
  have hbuf : s.blk.ps1.buf.toList = writeData l := by
    have := h.buf (by omega)
    rwa [List.take_of_length_le (by simp; omega)] at this
  have hsum := h.sum (by omega)
  have hexp := h.expected (by omega)
  have hslot : slotRec p q s = addressed (slotRec p q s0) (l.getD 2 0) (l.getD 3 0) := by
    rw [h.slot, if_pos ⟨rfl, rfl⟩, writeRecord, if_neg (by omega), ev']
    rfl
  have hcards : s.cards = s0.cards := by
    rw [h.cards, writeCards, ev']
    rfl
  have hrec : ∀ r, writeRecord s0 (l ++ [b]) r =
      if writeSaved s0 (l ++ [b]) then { addressed r (l.getD 2 0) (l.getD 3 0) with flag := r.flag &&& 0xF7 }
      else addressed r (l.getD 2 0) (l.getD 3 0) := by
    intro r
    rw [writeRecord, if_neg (show ¬(l ++ [b]).length < 4 by simp; omega), e2, e3]
  -- the state after, with the slot records and card memory it must have
  have key : ∀ t : State,
      t.blk.ps1 = { s.blk.ps1 with cursor := s.blk.ps1.cursor + 1 } →
      (∀ p' q', slotRec p' q' t =
        if p' = p ∧ q' = q then writeRecord s0 (l ++ [b]) (slotRec p q s0) else slotRec p' q' s) →
      t.cards = writeCards p q s0 (l ++ [b]) → t.inputs.card = s.inputs.card → t.params = s.params →
      WriteAt p q s0 (l ++ [b]) t := by
    intro t h1 hm hd hi hp
    exact
    { cursor := by rw [h1, List.length_append, List.length_singleton, ← Nat.add_assoc, ← h.cursor]
      msb := fun _ => by
        rw [h1, e2]
        exact h.msb (by omega)
      slot := fun p' q' => by
        rw [hm]
        split
        · rfl
        · next hpq => rw [h.slot, if_neg hpq]
      sum := fun _ => by rw [h1, e2, e3, ed, ← hsum]
      buf := fun _ => by
        rw [h1, ed, ← hbuf, List.length_append, List.length_singleton, List.take_of_length_le (by simp; omega)]
      expected := fun _ => by rw [h1, e132, ← hexp]
      cards := hd
      card := hi.trans h.card
      params := hp.trans h.params }
  have hbad : writeStatus s0 l ≠ 0x47 → WriteAt p q s0 (l ++ [b]) (ps1Advance s) := by
    intro hne
    have ev2 : writeSaved s0 (l ++ [b]) = false := by
      rw [ev]
      simpa using hne
    refine key _ rfl (fun p' q' => ?_) ?_ rfl rfl
    · rw [hrec, ev2]
      show slotRec p' q' s = _
      split
      · next hpq =>
        rw [hpq.1, hpq.2, hslot]
        rfl
      · rfl
    · rw [writeCards, ev2]
      exact hcards
  rw [es]
  unfold ps1WriteCommit
  have x1 : (ps1Advance s).blk.ps1.expected = l.getD 132 0 := hexp
  have x2 : (ps1Advance s).blk.ps1.checksum = seed s0 (l.getD 2 0) (l.getD 3 0) ^^^ xorOf (writeData l) := hsum
  have x3 : slotRec p q (ps1Advance s) = addressed (slotRec p q s0) (l.getD 2 0) (l.getD 3 0) := hslot
  rw [x1, x2, x3]
  by_cases hc : l.getD 132 0 = seed s0 (l.getD 2 0) (l.getD 3 0) ^^^ xorOf (writeData l)
  · by_cases hg : 0x3FF < writeSector l
    · have hst : writeStatus s0 l = 0xFF := by rw [writeStatus, if_neg (by simpa using hc), if_pos hg]
      have hgs : (addressed (slotRec p q s0) (l.getD 2 0) (l.getD 3 0)).goodSector = false := by
        simp only [addressed, decide_eq_false_iff_not]
        exact Nat.not_le.mpr hg
      rw [if_neg (by simpa using hc), if_pos hgs, hst]
      exact ⟨hbad (by rw [hst]; decide), rfl⟩
    · have hst : writeStatus s0 l = 0x47 := by rw [writeStatus, if_neg (by simpa using hc), if_neg hg]
      have hgs : (addressed (slotRec p q s0) (l.getD 2 0) (l.getD 3 0)).goodSector = true := by
        simp only [addressed, decide_eq_true_eq]
        exact Nat.not_lt.mp hg
      rw [if_neg (by simpa using hc), if_neg (show ¬(addressed (slotRec p q s0) (l.getD 2 0) (l.getD 3 0)).goodSector = false by rw [hgs]; decide), hst]
      have ev2 : writeSaved s0 (l ++ [b]) = true := by
        rw [ev, hst]
        rfl
      refine ⟨key _ ?_ (fun p' q' => ?_) ?_ ?_ ?_, rfl⟩
      · rw [cardSave_eq]
        rfl
      · rw [slotRec_setSlotRec]
        obtain ⟨m, hm⟩ := cardSave_frame (ps1Advance s) p q
          (addressed (slotRec p q s0) (l.getD 2 0) (l.getD 3 0)).transferAddr (ps1Advance s).blk.ps1.buf.toList
        rw [hm]
        by_cases hpq : p' = p ∧ q' = q
        · obtain ⟨rfl, rfl⟩ := hpq
          simp only [and_self, if_true]
          rw [hrec, ev2, if_pos rfl]
          show { slotRec p' q' s with flag := flagDirectoryRead (slotRec p' q' s).flag } = _
          rw [hslot]
          rfl
        · rw [if_neg (fun e => hpq ⟨e.1.symm, e.2.symm⟩), if_neg hpq]
          rfl
      · rw [writeCards, ev2, writeSector_append l b (by omega), ed, ← hbuf]
        show (cardSave p q _ s.blk.ps1.buf.toList (ps1Advance s)).cards = _
        rw [if_pos rfl, cardSave_eq, cardSave_eq]
        show (if (cardInput p q s).admitsSave = true then _ else s.cards) = _
        have hi : cardInput p q s = cardInput p q s0 := by rw [cardInput, cardInput, h.card]
        have hm : cardMem p q (ps1Advance s) = cardMem p q s0 := by
          show cardMem p q s = _
          rw [cardMem, cardMem, hcards]
        rw [hi, hm]
        show (if _ then setEntry s.cards p q _ else s.cards) = _
        rw [hcards]
        rfl
      · rw [cardSave_eq]
        rfl
      · rw [cardSave_eq]
        rfl
  · have hst : writeStatus s0 l = 0x4E := by rw [writeStatus, if_pos hc]
    rw [if_pos hc, hst]
    exact ⟨hbad (by rw [hst]; decide), rfl⟩

/-- One byte more of a Write, and its reply. -/
theorem WriteAt.step {l : List Byte} {s : State} (h : WriteAt p q s0 l s) (b : Byte) :
    WriteAt p q s0 (l ++ [b]) (ps1Write p q b s).2
      ∧ (l.length < 136 → (writeLayout s0 (l ++ [b]))[l.length]? = some (ps1Write p q b s).1) := by
  have hc := h.cursor
  unfold ps1Write
  dsimp only
  rw [hc]
  rcases Nat.lt_or_ge l.length 4 with h4 | h4
  · rcases (show l.length = 0 ∨ l.length = 1 ∨ l.length = 2 ∨ l.length = 3 by omega) with hl | hl | hl | hl <;>
      rw [hl]
    · exact ⟨h.plain p q s0 b (by omega) rfl (by rw [hl]; rfl) (by rw [hl]; rfl) rfl rfl rfl rfl, fun _ => rfl⟩
    · exact ⟨h.plain p q s0 b (by omega) rfl (by rw [hl]; rfl) (by rw [hl]; rfl) rfl rfl rfl rfl, fun _ => rfl⟩
    · exact ⟨h.plain p q s0 b (by omega) rfl (by rw [hl]; rfl) (by rw [hl]; rfl) rfl rfl rfl rfl, fun _ => rfl⟩
    · refine ⟨?_, fun _ => rfl⟩
      show WriteAt p q s0 (l ++ [b]) (ps1Ack (ps1TakeLSB p q b (ps1Advance s)))
      rw [ps1TakeLSB_eq]
      refine h.takeLSB p q s0 b hl rfl (fun p' q' => ?_) rfl rfl rfl
      show slotRec p' q' (setSlotRec p q (addressed (slotRec p q s) s.blk.ps1.addrMSB b) s) = _
      rw [slotRec_setSlotRec]
      by_cases hpq : p = p' ∧ q = q'
      · obtain ⟨rfl, rfl⟩ := hpq
        simp
      · rw [if_neg hpq, if_neg fun e => hpq ⟨e.1.symm, e.2.symm⟩]
  · rcases Nat.lt_or_ge l.length 132 with h132 | h132
    · obtain ⟨i, hl⟩ : ∃ i : Fin 128, l.length = 4 + i.val := ⟨⟨l.length - 4, by omega⟩, by simp; omega⟩
      rw [show 2 + l.length = 6 + i.val by omega, writePosition_data]
      refine ⟨h.data p q s0 b i hl rfl rfl rfl rfl rfl, fun _ => ?_⟩
      rw [writeLayout, hl, List.append_assoc, List.getElem?_append_right (by simp),
        List.getElem?_append_left (by simp), List.getElem?_replicate,
        if_pos (show 4 + i.val - ([0x5A, 0x5D, 0x00, 0x00] : List Byte).length < 128 by simp)]
      rfl
    · rcases (show l.length = 132 ∨ l.length = 133 ∨ l.length = 134 ∨ l.length = 135 ∨ 136 ≤ l.length by omega)
        with hl | hl | hl | hl | hl
      · rw [hl]
        exact ⟨h.plain p q s0 b (by omega) rfl (by rw [hl]; rfl) (by rw [hl]; rfl) rfl rfl rfl rfl, fun _ => rfl⟩
      · rw [hl]
        exact ⟨h.plain p q s0 b (by omega) rfl (by rw [hl]; rfl) (by rw [hl]; rfl) rfl rfl rfl rfl, fun _ => rfl⟩
      · rw [hl]
        exact ⟨h.plain p q s0 b (by omega) rfl (by rw [hl]; rfl) (by rw [hl]; rfl) rfl rfl rfl rfl, fun _ => rfl⟩
      · obtain ⟨h1, h2⟩ := h.commit p q s0 b hl
        rw [hl]
        refine ⟨h1, fun _ => ?_⟩
        show _ = some (ps1WriteCommit p q (ps1Advance s)).1
        rw [h2]
        rfl
      · rw [writePosition_past _ (by omega)]
        refine ⟨h.plain p q s0 b (by omega) rfl ?_ ?_ rfl rfl rfl rfl, fun hn => absurd hn (by omega)⟩
        · rw [if_neg (by omega)]
          rfl
        · rw [if_neg (by omega)]
          rfl

/-- The layout's replies up to a byte do not depend on the bytes after it. -/
theorem writeLayout_append (l : List Byte) (b : Byte) (h : l.length < 136) :
    (writeLayout s0 (l ++ [b])).take l.length = (writeLayout s0 l).take l.length := by
  have e : ∀ x : Byte, ([0x5A, 0x5D, 0x00, 0x00] ++ List.replicate 128 0x00 ++ [0x00, 0x5C, 0x5D, x]).take l.length =
      ([0x5A, 0x5D, 0x00, 0x00] ++ List.replicate 128 0x00 ++ [0x00, 0x5C, 0x5D] : List Byte).take l.length := by
    intro x
    rw [show ([0x00, 0x5C, 0x5D, x] : List Byte) = [0x00, 0x5C, 0x5D] ++ [x] from rfl, ← List.append_assoc,
      List.take_append_of_le_length (by simp; omega)]
  rw [writeLayout, writeLayout, e, e]

/-- A Write run from its start, by the handler within whatever each byte does beside it: the invariant, and the replies as
far as the layout goes. -/
theorem ps1Run_write (handler : Byte → State → Byte × State)
    (hh : ∀ (l : List Byte) (b : Byte) (s : State), WriteAt p q s0 l s →
      WriteAt p q s0 (l ++ [b]) (handler b s).2
        ∧ (l.length < 136 → (writeLayout s0 (l ++ [b]))[l.length]? = some (handler b s).1))
    (l : List Byte) (s : State) (h : WriteAt p q s0 [] s) :
    WriteAt p q s0 l (ps1Run handler l s).2
      ∧ (ps1Run handler l s).1.take 136 = (writeLayout s0 l).take l.length := by
  induction l using List.reverseRecOn with
  | nil => exact ⟨h, rfl⟩
  | append_singleton l b ih =>
    obtain ⟨hr, ht⟩ := ih
    obtain ⟨hs, hl⟩ := hh l b _ hr
    rw [ps1Run_append]
    refine ⟨hs, ?_⟩
    rw [List.length_append, List.length_singleton]
    rcases Nat.lt_or_ge l.length 136 with h8 | h8
    · rw [take_succ_of_getElem? _ _ _ (hl h8), writeLayout_append s0 l b h8, ← ht]
      rw [List.take_of_length_le (by simp; omega), List.take_of_length_le (by simp; omega)]
    · rw [List.take_append_of_le_length (by simpa using h8), ht]
      rw [List.take_of_length_le (by simp [writeLayout]; omega), List.take_of_length_le (by simp [writeLayout]; omega),
        writeLayout, writeLayout, writeStatus_append s0 l b (by omega)]

/-! ### The two runs of a handler -/

/-- A handler fed with a frame's bytes, each reply queued. -/
def queuing (handler : Byte → State → Byte × State) (b : Byte) (s : State) : Byte × State :=
  ((handler b s).1, pushOut [(handler b s).1] (handler b s).2)

/-- A handler fed by TX_DATA writes. -/
def writing (handler : Byte → State → Byte × State) (b : Byte) (s : State) : Byte × State :=
  ((handler b (txStored b s)).1, txReplied (handler b (txStored b s)).1 (handler b (txStored b s)).2)

theorem ps1Drain_eq (handler : Byte → State → Byte × State) (l : List Byte) (s : State) :
    ps1Drain handler l s = (ps1Run (queuing handler) l s).2 := by
  induction l generalizing s with
  | nil => rfl
  | cons b l ih => exact ih _

/-- The queue after a nested run. -/
theorem ps1Drain_fifoOut (handler : Byte → State → Byte × State)
    (h : ∀ b s, (handler b s).2.blk.fifoOut = s.blk.fifoOut) (l : List Byte) (s : State) :
    (ps1Drain handler l s).blk.fifoOut = s.blk.fifoOut ++ (ps1Run (queuing handler) l s).1 := by
  induction l generalizing s with
  | nil => simp [ps1Drain, ps1Run]
  | cons b l ih =>
    rw [ps1Drain, ih]
    simp [ps1Run, queuing, h]

theorem ReadAt.queuing {l : List Byte} {s : State} (h : ReadAt p q s0 l s) (b : Byte) :
    ReadAt p q s0 (l ++ [b]) (queuing (ps1Read p q) b s).2
      ∧ (l.length < 138 →
        (readLayout p q s0 (l ++ [b]))[l.length]? = some (Machine.queuing (ps1Read p q) b s).1) :=
  ⟨(h.step p q s0 b).1.congr p q s0 rfl rfl rfl (fun _ => rfl) rfl rfl rfl, (h.step p q s0 b).2⟩

theorem WriteAt.queuing {l : List Byte} {s : State} (h : WriteAt p q s0 l s) (b : Byte) :
    WriteAt p q s0 (l ++ [b]) (queuing (ps1Write p q) b s).2
      ∧ (l.length < 136 → (writeLayout s0 (l ++ [b]))[l.length]? = some (Machine.queuing (ps1Write p q) b s).1) :=
  ⟨(h.step p q s0 b).1.congr p q s0 rfl rfl rfl rfl rfl, (h.step p q s0 b).2⟩

theorem ReadAt.writing {l : List Byte} {s : State} (h : ReadAt p q s0 l s) (b : Byte) :
    ReadAt p q s0 (l ++ [b]) (writing (ps1Read p q) b s).2
      ∧ (l.length < 138 →
        (readLayout p q s0 (l ++ [b]))[l.length]? = some (Machine.writing (ps1Read p q) b s).1) := by
  have h' : ReadAt p q s0 l (txStored b s) := h.congr p q s0 rfl rfl rfl (fun _ => rfl) rfl rfl rfl
  refine ⟨(h'.step p q s0 b).1.congr p q s0 rfl rfl rfl (fun addr => ?_) rfl rfl rfl, (h'.step p q s0 b).2⟩
  show ((ps1Read p q b (txStored b s)).2.events ++ [Event.irq .sio0]).count _ = _
  rw [List.count_append]
  rfl

theorem WriteAt.writing {l : List Byte} {s : State} (h : WriteAt p q s0 l s) (b : Byte) :
    WriteAt p q s0 (l ++ [b]) (writing (ps1Write p q) b s).2
      ∧ (l.length < 136 → (writeLayout s0 (l ++ [b]))[l.length]? = some (Machine.writing (ps1Write p q) b s).1) := by
  have h' : WriteAt p q s0 l (txStored b s) := h.congr p q s0 rfl rfl rfl rfl rfl
  exact ⟨(h'.step p q s0 b).1.congr p q s0 rfl rfl rfl rfl rfl, (h'.step p q s0 b).2⟩

/-- The body of a transaction whose command's handler is `handler`, from a state in which SIO0 is in that body. -/
theorem sendTransaction_body (c : Byte) (handler : Byte → State → Byte × State)
    (hc : ∀ b s, s.blk.sio0.command = c → sio0Port s = p → s0MemcardBody b s = handler b s)
    (hh : ∀ b s, HandlerRel s (handler b s).2) (l : List Byte) (s : State) (hg : txGated s = false)
    (hw : s.blk.sio0.stage = .working) (hm : s.blk.sio0.sioMode = .memcard) (hcmd : s.blk.sio0.command = c)
    (hp : sio0Port s = p) : sendTransaction l s = .next (ps1Run (writing handler) l s).2 := by
  induction l generalizing s with
  | nil => rfl
  | cons b l ih =>
    have e0 : (handler b (txStored b s)).2.blk.sio0 =
        { (txStored b s).blk.sio0 with stat := (handler b (txStored b s)).2.blk.sio0.stat } := (hh b _).sio0
    have hb := txWrite_memcardBody b s hg hw hm _ _ (hc b (txStored b s) hcmd hp)
    rw [sendTransaction, hb, andThen_next]
    refine ih (writing handler b s).2 ?_ ?_ ?_ ?_ ?_
    · rw [← hg, txGated, txGated]
      show ((handler b (txStored b s)).2.params.sio0TxEnableGates
        && !(handler b (txStored b s)).2.blk.sio0.ctrl.getLsbD config.ctrlTxEnable) = _
      rw [(hh b _).params, e0]
      rfl
    · show (handler b (txStored b s)).2.blk.sio0.stage = _
      rw [e0, ← hw]
      rfl
    · show (handler b (txStored b s)).2.blk.sio0.sioMode = _
      rw [e0, ← hm]
      rfl
    · show (handler b (txStored b s)).2.blk.sio0.command = _
      rw [e0, ← hcmd]
      rfl
    · rw [← hp, sio0Port, sio0Port, Block.sio0Port, Block.sio0Port]
      show (if (handler b (txStored b s)).2.blk.sio0.ctrl.getLsbD config.ctrlPort then (1 : Port) else 0) = _
      rw [e0]
      rfl

end Sys2Proof.Machine
end

