-- ==== Sys2Proof/Tests/Slice0.lean ====
section
/-! SUPPORT. The model's own tests: ill-formed terms refused, every constructor's packet written out from the tables of
30_encoding.md and 20_memory.md R44, single steps with results from 95_test_vectors.md (V and P numbers) or read off
the rules, and for every statement with hypotheses a state and operands that meet them. -/

namespace Sys2Proof.Tests

open Sys2Proof.Machine

/-! ### Fixtures -/

/-- "PS2 card G" of 95_test_vectors.md. -/
def cardG : CardInput :=
  { CardInput.absent with
    present := true
    geometry := { sectorSize := 512, eraseBlockSectors := 16, totalSectors := 0x4000, xorConstant := 0x52 } }

/-- A PS1-type card. -/
def cardPs1 : CardInput := { cardG with isPSX := true }

/-- The reset state with AUTO_EJECT_TICKS = 2, one card everywhere, both multitaps on or off. -/
def world (c : CardInput) (multitap : Bool) : State :=
  { State.reset with
    params := { config.params with autoEjectTicks := 2 }
    inputs :=
      { pad := [{ reply := 0xFF, complete := false }, { reply := 0x41, complete := false },
          { reply := 0x5A, complete := true }]
        card := Vector.replicate 2 (Vector.replicate 4 c)
        multitapEnabled := Vector.replicate 2 multitap } }

/-- `S2BEGIN a b c`: the first three SEND3 entries. -/
def cycle (a b c : Word) (s : State) : State :=
  { s with blk.sio2.send3 := ((s.blk.sio2.send3.set 0 a).set 1 b).set 2 c }

/-- One frame of n bytes on port 0, PS2 card G. -/
def frameG (n : Nat) : State := cycle (BitVec.ofNat 32 (256 * n)) 0 0 (world cardG true)

/-- One frame of n bytes on port 0, PS1-type card. -/
def framePs1 (n : Nat) : State := cycle (BitVec.ofNat 32 (256 * n)) 0 0 (world cardPs1 true)

/-- Slot (0, 0) with a transfer address. -/
def atAddress (a : Word) (s : State) : State := setSlotRec 0 0 { slotRec 0 0 s with transferAddr := a } s

/-- SIO0 in a stage. -/
def inStage (stage : Stage) (mode : SioMode) (command : Byte) (s : State) : State :=
  { s with blk.sio0 := { s.blk.sio0 with stage := stage, sioMode := mode, command := command } }

/-- SIO0 in the body of a PS1 command, at a position. -/
def inBody (command : Byte) (pos : Nat) (s : State) : State :=
  { inStage .working .memcard command s with blk.ps1 := { s.blk.ps1 with cursor := pos } }

/-- A stream of one operation. -/
def sending (p : Packet) (s : State) : State := { s with pending := [{ packet := p, inputs := s.inputs }] }

/-- What a result's next state holds, nothing if there is none. -/
def look {α : Type} (f : State → α) (r : Result) : Option α :=
  match r with
  | .next t => some (f t)
  | _ => none

/-- fifoOut and RECV1. -/
def reply (s : State) : List Byte × Word := (s.blk.fifoOut, s.blk.sio2.recv1)

/-- RX_DATA, STAT and the stage. -/
def sio0View (s : State) : Byte × Word × Stage := (s.blk.sio0.rxData, s.blk.sio0.stat, s.blk.sio0.stage)

/-- Cursor, flags and length of the sequencer, and fifoIn. -/
structure Cursor where
  position : Nat
  read : Bool
  complete : Bool
  length : Nat
  fifoIn : List Byte
  deriving DecidableEq, Repr

/-- Those of a state. -/
def cursor (s : State) : Cursor :=
  ⟨s.blk.sio2.send3Position, s.blk.sio2.send3Read, s.blk.sio2.send3Complete, s.blk.sio2.commandLength, s.blk.fifoIn⟩

/-- sectorAddr, transferAddr and goodSector of slot (0, 0). -/
def address (s : State) : Word × Word × Bool :=
  ((slotRec 0 0 s).sectorAddr, (slotRec 0 0 s).transferAddr, (slotRec 0 0 s).goodSector)

/-- The eight auto-eject counters. -/
def ticks (s : State) : List Nat := allSlots.map fun pq => (slotRec pq.1 pq.2 s).autoEjectTicks

/-- The next state of a result, where there is one. -/
def stateOf (r : Result) : State :=
  match r with
  | .next t => t
  | _ => State.reset

/-- There is one. -/
def answers (r : Result) : Bool :=
  match r with
  | .next _ => true
  | _ => false

theorem next_of {r : Result} (h : answers r = true) : r = .next (stateOf r) := by
  cases r <;> first | rfl | simp [answers] at h

/-! ### WellFormed refuses what it checks -/

theorem test_wf_mtapUnknown : Instr.wf (.mtapUnknown 0x13 []) = false := by decide

theorem test_wf_s2UnknownMode : Instr.wf (.s2UnknownMode 0x61 [0x00]) = false := by decide

theorem test_wf_mcAuthXorUnknown : Instr.wf (.mcAuthXorUnknown 0x14 []) = false := by decide

theorem test_wf_mcUnknown : Instr.wf (.mcUnknown 0xBF []) = false := by decide

theorem test_wf_s0PadUnknown : Instr.wf (.s0PadUnknown 0x4F) = false := by decide

theorem test_wf_s0MemcardUnknown : Instr.wf (.s0MemcardUnknown 0x58) = false := by decide

theorem test_wf_s0UnknownMode : Instr.wf (.s0UnknownMode 0x81) = false := by decide

/-- An image of a block, with no card recorded. -/
def imageOf (b : Block) : Image := { state := b, crc := Vector.replicate 2 (Vector.replicate 4 0) }

theorem test_wf_image_stat :
    Instr.wf (.pinCheckpointLoad (imageOf { Block.reset with sio0.stat := 0x00000010 })) = false := by decide

theorem test_wf_image_position :
    Instr.wf (.pinCheckpointLoad (imageOf { Block.reset with sio2.send3Position := 17 })) = false := by decide

theorem test_wf_image_length :
    Instr.wf (.pinCheckpointLoad (imageOf { Block.reset with sio2.commandLength := 512 })) = false := by decide

/-! ### Decoding, every constructor

Addresses from 20_memory.md R44, PIN codes from R62, mode and command bytes from R69 to R74. -/

theorem test_decode_sio0 :
    decode true (.write 0x1F801040 8 0x81) = .ok (.wr8Sio0TxData 0x81)
      ∧ decode true (.read 0x1F801040 8) = .ok .rd8Sio0RxData
      ∧ decode true (.read 0x1F801044 32) = .ok .rd32Sio0Stat
      ∧ decode true (.write 0x1F801044 32 0xFFFFFFFF) = .ok (.wr32Sio0Stat 0xFFFFFFFF)
      ∧ decode true (.write 0x1F80104A 16 0x2013) = .ok (.wr16Sio0Ctrl 0x2013)
      ∧ decode true (.read 0x1F80104A 16) = .ok .rd16Sio0Ctrl
      ∧ decode true (.write 0x1F801048 16 0x000D) = .ok (.wr16Sio0Mode 0x000D)
      ∧ decode true (.read 0x1F801048 16) = .ok .rd16Sio0Mode := by
  decide

theorem test_decode_sio2_tables :
    decode true (.write 0x1F808200 32 0x500) = .ok (.wr32Sio2Send3 0 0x500)
      ∧ decode true (.write 0x1F80823C 32 0x901) = .ok (.wr32Sio2Send3 15 0x901)
      ∧ decode true (.read 0x1F808204 32) = .ok (.rd32Sio2Send3 1)
      ∧ decode true (.write 0x1F808258 32 0x1) = .ok (.wr32Sio2Send1 3 0x1)
      ∧ decode true (.read 0x1F808240 32) = .ok (.rd32Sio2Send1 0)
      ∧ decode true (.write 0x1F80825C 32 0x20014) = .ok (.wr32Sio2Send2 3 0x20014)
      ∧ decode true (.read 0x1F80824C 32) = .ok (.rd32Sio2Send2 1) := by
  decide

theorem test_decode_sio2 :
    decode true (.write 0x1F808260 8 0x28) = .ok (.wr8Sio2DataIn 0x28)
      ∧ decode true (.read 0x1F808264 8) = .ok .rd8Sio2DataOut
      ∧ decode true (.write 0x1F808268 32 0x3BD) = .ok (.wr32Sio2Ctrl 0x3BD)
      ∧ decode true (.read 0x1F808268 32) = .ok .rd32Sio2Ctrl
      ∧ decode true (.read 0x1F80826C 32) = .ok .rd32Sio2Recv1
      ∧ decode true (.write 0x1F80826C 32 0) = .ok (.wr32Sio2Recv1 0)
      ∧ decode true (.read 0x1F808270 32) = .ok .rd32Sio2Recv2
      ∧ decode true (.write 0x1F808270 32 7) = .ok (.wr32Sio2Recv2 7)
      ∧ decode true (.read 0x1F808274 32) = .ok .rd32Sio2Recv3
      ∧ decode true (.write 0x1F808274 32 9) = .ok (.wr32Sio2Recv3 9) := by
  decide

theorem test_decode_pins :
    decode true (.pin 0x0 [] none) = .ok .pinHardReset
      ∧ decode true (.pin 0x1 [36] none) = .ok (.pinDmaSetBlock 36)
      ∧ decode true (.pin 0x2 [1, 3] none) = .ok (.pinAeSet 1 3)
      ∧ decode true (.pin 0x3 [0, 2] none) = .ok (.pinAeClear 0 2)
      ∧ decode true (.pin 0x4 [] none) = .ok .pinAeSetall
      ∧ decode true (.pin 0x5 [] none) = .ok .pinAeClearall := by
  decide

theorem test_decode_checkpoint :
    decode true (.pin 0x6 [] (some (imageOf Block.reset))) = .ok (.pinCheckpointLoad (imageOf Block.reset)) := rfl

theorem test_decode_modes :
    decode true (.frame [0x01, 0x42, 0x00]) = .ok (.s2Pad [0x42, 0x00])
      ∧ decode false (.frame [0x21, 0x21, 0x02]) = .ok (.s2MtapDisabled [0x21, 0x02])
      ∧ decode true (.frame [0x61, 0x05, 0x06]) = .ok (.s2Infrared 0x05 [0x06])
      ∧ decode true (.frame [0x82, 0x07]) = .ok (.s2UnknownMode 0x82 [0x07]) := by
  decide

theorem test_decode_multitap :
    decode true (.frame [0x21, 0x12, 0x00]) = .ok (.mtapPadSupportCheck [0x00])
      ∧ decode true (.frame [0x21, 0x13]) = .ok (.mtapMemcardSupportCheck [])
      ∧ decode true (.frame [0x21, 0x21, 0x02, 0x09]) = .ok (.mtapSelectPad 0x02 [0x09])
      ∧ decode true (.frame [0x21, 0x22, 0x03]) = .ok (.mtapSelectMemcard 0x03 [])
      ∧ decode true (.frame [0x21, 0x14, 0x05]) = .ok (.mtapUnknown 0x14 [0x05]) := by
  decide

theorem test_decode_memcard_addresses :
    decode true (.frame [0x81, 0x21, 0x01, 0x02, 0x03, 0x04, 0x05, 0x06]) = .ok (.mcSetEraseSector 0x01 0x02 0x03 0x04 0x05 [0x06])
      ∧ decode true (.frame [0x81, 0x22, 0x01, 0x02, 0x03, 0x04, 0x05, 0x06]) = .ok (.mcSetWriteSector 0x01 0x02 0x03 0x04 0x05 [0x06])
      ∧ decode true (.frame [0x81, 0x23, 0x01, 0x02, 0x03, 0x04, 0x05, 0x06]) = .ok (.mcSetReadSector 0x01 0x02 0x03 0x04 0x05 [0x06]) := by
  decide

theorem test_decode_memcard :
    decode true (.frame [0x81, 0x11, 0x0A]) = .ok (.mcProbe [0x0A])
      ∧ decode true (.frame [0x81, 0x26, 0x0A]) = .ok (.mcGetSpecs [0x0A])
      ∧ decode true (.frame [0x81, 0x28, 0x0A]) = .ok (.mcGetTerminator [0x0A])
      ∧ decode true (.frame [0x81, 0x52, 0x0A]) = .ok (.mcPs1Read [0x0A])
      ∧ decode true (.frame [0x81, 0x53, 0x0A]) = .ok (.mcPs1State [0x0A])
      ∧ decode true (.frame [0x81, 0x57, 0x0A]) = .ok (.mcPs1Write [0x0A])
      ∧ decode true (.frame [0x81, 0x58, 0x0A]) = .ok (.mcPs1Pocketstation [0x0A])
      ∧ decode true (.frame [0x81, 0x81, 0x0A]) = .ok (.mcReadWriteEnd [0x0A])
      ∧ decode true (.frame [0x81, 0x82, 0x0A]) = .ok (.mcEraseBlock [0x0A])
      ∧ decode true (.frame [0x81, 0xBF, 0x0A]) = .ok (.mcUnknownBoot [0x0A])
      ∧ decode true (.frame [0x81, 0xF3, 0x0A]) = .ok (.mcAuthF3 [0x0A])
      ∧ decode true (.frame [0x81, 0xF7, 0x0A]) = .ok (.mcAuthF7 [0x0A]) := by
  decide

theorem test_decode_memcard_operands :
    decode true (.frame [0x81, 0x27, 0xAA, 0x0B]) = .ok (.mcSetTerminator 0xAA [0x0B])
      ∧ decode true (.frame [0x81, 0x42, 0x02, 0xAA, 0x0F]) = .ok (.mcWriteData 0x02 [0xAA, 0x0F])
      ∧ decode true (.frame [0x81, 0x43, 0x02]) = .ok (.mcReadData 0x02 [])
      ∧ decode true (.frame [0x81, 0x12, 0x0A]) = .ok (.mcUnknown 0x12 [0x0A])
      ∧ decode true (.frame [0x81, 0xF0, 0x15, 0x0A]) = .ok (.mcAuthXorUnknown 0x15 [0x0A]) := by
  decide

theorem test_decode_auth_xor :
    decode true (.frame [0x81, 0xF0, 0x00, 0x0A]) = .ok (.mcAuthXor00 [0x0A])
      ∧ decode true (.frame [0x81, 0xF0, 0x01, 0x0A]) = .ok (.mcAuthXor01 [0x0A])
      ∧ decode true (.frame [0x81, 0xF0, 0x02, 0x0A]) = .ok (.mcAuthXor02 [0x0A])
      ∧ decode true (.frame [0x81, 0xF0, 0x03, 0x0A]) = .ok (.mcAuthXor03 [0x0A])
      ∧ decode true (.frame [0x81, 0xF0, 0x04, 0x0A]) = .ok (.mcAuthXor04 [0x0A])
      ∧ decode true (.frame [0x81, 0xF0, 0x05, 0x0A]) = .ok (.mcAuthXor05 [0x0A])
      ∧ decode true (.frame [0x81, 0xF0, 0x06, 0x0A]) = .ok (.mcAuthXor06 [0x0A])
      ∧ decode true (.frame [0x81, 0xF0, 0x07, 0x0A]) = .ok (.mcAuthXor07 [0x0A])
      ∧ decode true (.frame [0x81, 0xF0, 0x08, 0x0A]) = .ok (.mcAuthXor08 [0x0A])
      ∧ decode true (.frame [0x81, 0xF0, 0x09, 0x0A]) = .ok (.mcAuthXor09 [0x0A])
      ∧ decode true (.frame [0x81, 0xF0, 0x0A, 0x0A]) = .ok (.mcAuthXor0A [0x0A])
      ∧ decode true (.frame [0x81, 0xF0, 0x0B, 0x0A]) = .ok (.mcAuthXor0B [0x0A])
      ∧ decode true (.frame [0x81, 0xF0, 0x0C, 0x0A]) = .ok (.mcAuthXor0C [0x0A])
      ∧ decode true (.frame [0x81, 0xF0, 0x0D, 0x0A]) = .ok (.mcAuthXor0D [0x0A])
      ∧ decode true (.frame [0x81, 0xF0, 0x0E, 0x0A]) = .ok (.mcAuthXor0E [0x0A])
      ∧ decode true (.frame [0x81, 0xF0, 0x0F, 0x0A]) = .ok (.mcAuthXor0F [0x0A])
      ∧ decode true (.frame [0x81, 0xF0, 0x10, 0x0A]) = .ok (.mcAuthXor10 [0x0A])
      ∧ decode true (.frame [0x81, 0xF0, 0x11, 0x0A]) = .ok (.mcAuthXor11 [0x0A])
      ∧ decode true (.frame [0x81, 0xF0, 0x12, 0x0A]) = .ok (.mcAuthXor12 [0x0A])
      ∧ decode true (.frame [0x81, 0xF0, 0x13, 0x0A]) = .ok (.mcAuthXor13 [0x0A])
      ∧ decode true (.frame [0x81, 0xF0, 0x14, 0x0A]) = .ok (.mcAuthXor14 [0x0A]) := by
  decide

theorem test_decode_transactions :
    decode true (.transaction [0x01, 0x4F, 0x00]) = .ok (.s0Pad 0xF [0x00])
      ∧ decode true (.transaction [0x01, 0x50]) = .ok (.s0PadUnknown 0x50)
      ∧ decode true (.transaction [0x81, 0x52, 0x00]) = .ok (.s0Ps1Read [0x00])
      ∧ decode true (.transaction [0x81, 0x53]) = .ok (.s0Ps1State [])
      ∧ decode true (.transaction [0x81, 0x57]) = .ok (.s0Ps1Write [])
      ∧ decode true (.transaction [0x81, 0x58]) = .ok .s0Ps1Pocketstation
      ∧ decode true (.transaction [0x81, 0x11]) = .ok (.s0MemcardUnknown 0x11)
      ∧ decode true (.transaction [0x21]) = .ok (.s0UnknownMode 0x21) := by
  decide

/-- What is no instruction is rejected, by name (U1, U7, R79). -/
theorem test_decode_rejects :
    decode true (.read 0x1F801041 8) = .error .noRegister
      ∧ decode true (.read 0x1F801044 8) = .error .wrongWidth
      ∧ decode true (.read 0x1F808260 8) = .error .wrongDirection
      ∧ decode true (.write 0x1F808264 8 0) = .error .wrongDirection
      ∧ decode true (.write 0x1F808260 8 0x100) = .error .valueTooWide
      ∧ decode true (.pin 0x7 [] none) = .error .noSuchPin
      ∧ decode true (.pin 0x0 [1] none) = .error .pinArguments
      ∧ decode true (.pin 0x2 [0, 4] none) = .error .slotOutOfRange
      ∧ decode true (.pin 0x6 [] (some (imageOf { Block.reset with sio2.commandLength := 512 })))
        = .error .imageIllTyped
      ∧ decode true (.frame [0x81, 0x22, 0x01]) = .error .patternTooShort
      ∧ decode true (.transaction [0x21, 0x00]) = .error .pastTransaction := by
  decide

/-! ### Table words (log 10) -/

theorem test_table_words :
    decodeTableWord 32 0x1F808200 = some (.wr32Sio2Send3 0 0)
      ∧ decodeTableWord 32 0x1F808264 = some .rd8Sio2DataOut
      ∧ decodeTableWord 8 0x2 = some (.pinAeSet 0 0)
      ∧ decodeTableWord 16 0x2122 = some (.mtapSelectMemcard 0 [0, 0, 0, 0, 0, 0, 0, 0])
      ∧ decodeTableWord 24 0x81F006 = some (.mcAuthXor06 [0, 0, 0, 0, 0, 0, 0, 0])
      ∧ decodeTableWord 16 0x0142 = some (.s0Pad 0x2 []) := by
  decide

/-- One word of each format is placed and run as the first instruction after reset. -/
theorem test_table_words_run :
    look (fun t => t.blk.sio2.send3[(3 : Fin 16)]) (step (State.reset.withFetchWord 32 0x1F80820C)) = some 0
      ∧ look (fun t => t.blk.sio2.dmaBlockSize) (step (State.reset.withFetchWord 8 0x0)) = some 0
      ∧ look reply (step (State.reset.withFetchWord 16 0x8128)) = some ([0x00, 0x08, 0x2B, 0x55, 0x55], 0x00001100)
      ∧ look (fun t => t.blk.sio0.stage) (step (State.reset.withFetchWord 16 0x0142)) = some .working := by
  decide

/-! ### Single steps: registers and control inputs -/

/-- V2. -/
theorem test_tx_data :
    look sio0View (exec (.wr8Sio0TxData 0x81) (world cardPs1 false)) = some (0x00, 0x00000087, .waitingCommand) := by
  decide

/-- V11a: a PS2-type card is dead air on SIO0. -/
theorem test_tx_data_ps2_card :
    look sio0View (exec (.wr8Sio0TxData 0x81) (world cardG false)) = some (0x00, 0x00000007, .idle) := by
  decide

/-- V3. -/
theorem test_stat_read :
    look (fun t => (t.events, t.blk.sio0.stat))
        (exec .rd32Sio0Stat { world cardG false with blk.sio0.stat := 0x00000087 })
      = some ([.read32 0x00000087], 0x00000007) := by
  decide

/-- V3. -/
theorem test_rx_data :
    look (fun t => (t.events, t.blk.sio0.stat))
        (exec .rd8Sio0RxData
          { world cardG false with blk.sio0.stat := 0x00000007, blk.sio0.rxData := 0x5A })
      = some ([.read8 0x5A], 0x00000005) := by
  decide

/-- V7. -/
theorem test_stat_write :
    exec (.wr32Sio0Stat 0xFFFFFFFF) { world cardG false with blk.sio0.stat := 0x00000007 }
      = .next { world cardG false with blk.sio0.stat := 0x00000007 } := rfl

/-- V5. -/
theorem test_ctrl_ack :
    look (fun t => (t.blk.sio0.ctrl, sio0View t))
        (exec (.wr16Sio0Ctrl 0x0010)
          { inStage .waitingCommand .memcard 0 (world cardG false) with blk.sio0.stat := 0x0000028D })
      = some (0x0000, 0x00, 0x00000005, .waitingCommand) := by
  decide

/-- V17: a write of 0 in the middle of a Read. -/
theorem test_ctrl_zero :
    look (fun t => (t.blk.sio0.stage, t.blk.sio0.sioMode, t.blk.sio0.command, t.blk.ps1.cursor))
        (exec (.wr16Sio0Ctrl 0) (inBody 0x52 5 (world cardPs1 false)))
      = some (.idle, .notSet, 0x00, 2) := by
  decide

/-- V4. -/
theorem test_ctrl_read :
    look State.events (exec .rd16Sio0Ctrl { world cardG false with blk.sio0.ctrl := 0x2003 })
      = some [.read16 0x2003] := by
  decide

/-- V8. -/
theorem test_mode :
    look (fun t => t.blk.sio0.mode) (exec (.wr16Sio0Mode 0x000D) (world cardG false)) = some 0x000D
      ∧ look State.events (exec .rd16Sio0Mode { world cardG false with blk.sio0.mode := 0x000D })
        = some [.read16 0x000D] := by
  decide

/-- V21a, V9e: entry 0 discards the partial frame and the DMA block. -/
theorem test_send3_first :
    look (fun t => (cursor t, t.blk.sio2.port, t.blk.sio2.dmaBlockSize))
        (exec (.wr32Sio2Send3 0 0x300)
          { world cardG false with
            blk.sio2.port := 1, blk.sio2.commandLength := 9, blk.sio2.send3Read := true, blk.fifoIn := [0x81, 0x11]
            blk.sio2.dmaBlockSize := 36 })
      = some (⟨0, false, false, 0, []⟩, 1, 0) := by
  decide

/-- V21b: another entry does not. -/
theorem test_send3_other :
    look (fun t => (cursor t, t.blk.sio2.send3[(1 : Fin 16)]))
        (exec (.wr32Sio2Send3 1 0x100)
          { frameG 2 with
            blk.sio2.commandLength := 2, blk.sio2.send3Read := true, blk.fifoIn := [0x00] })
      = some (⟨0, true, false, 2, [0x00]⟩, 0x100) := by
  decide

/-- V9b. -/
theorem test_send_tables :
    look State.events (exec (.rd32Sio2Send3 1) (cycle 1 2 3 (world cardG false))) = some [.read32 2]
      ∧ look (fun t => t.blk.sio2.send1.toList) (exec (.wr32Sio2Send1 0 0xFF020505) (world cardG false))
        = some [0xFF020505, 0, 0, 0]
      ∧ look (fun t => t.blk.sio2.send2.toList) (exec (.wr32Sio2Send2 3 0x00020014) (world cardG false))
        = some [0, 0, 0, 0x00020014]
      ∧ look State.events
          (exec (.rd32Sio2Send1 0) { world cardG false with blk.sio2.send1 := Vector.replicate 4 0xFF020505 })
        = some [.read32 0xFF020505]
      ∧ look State.events
          (exec (.rd32Sio2Send2 2) { world cardG false with blk.sio2.send2 := Vector.replicate 4 0x00020014 })
        = some [.read32 0x00020014] := by
  decide

/-- V20: an entry of length 0 ends the cycle and drops the byte. -/
theorem test_data_in_empty_entry :
    look cursor (exec (.wr8Sio2DataIn 0x81) (cycle 0 0 0 (world cardG false))) = some ⟨0, true, true, 0, []⟩ := by
  decide

/-- V21. -/
theorem test_data_in :
    look (fun t => (cursor t, t.blk.sio2.port))
        (exec (.wr8Sio2DataIn 0x81) (cycle 0x00000901 0 0 (world cardG false)))
      = some (⟨0, true, false, 9, [0x81]⟩, 1) := by
  decide

/-- V9d. -/
theorem test_data_out :
    look (fun t => (t.events, t.blk.fifoOut)) (exec .rd8Sio2DataOut { world cardG false with blk.fifoOut := [0x08] })
        = some ([.read8 0x08], [])
      ∧ look (fun t => (t.events, t.blk.fifoOut)) (exec .rd8Sio2DataOut (world cardG false))
        = some ([.read8 0x00], []) := by
  decide

/-- V9, V9a. -/
theorem test_sio2_ctrl :
    look (fun t => (t.events, t.blk.sio2.ctrl)) (exec (.wr32Sio2Ctrl 0x3BC) (world cardG false))
        = some ([.irq .sio2], 0x3BC)
      ∧ look State.events
          (exec (.wr32Sio2Ctrl 0x3BC) { world cardG false with params.sio2IrqNeedsStart := true }) = some [] := by
  decide

/-- V1, V9, V9c. -/
theorem test_sio2_reads :
    look State.events (exec .rd32Sio2Ctrl { world cardG false with blk.sio2.ctrl := 0x3BD }) = some [.read32 0x3BD]
      ∧ look State.events (exec .rd32Sio2Recv1 (world cardG false)) = some [.read32 0x0001D100]
      ∧ look State.events (exec .rd32Sio2Recv2 (world cardG false)) = some [.read32 0x0000000F]
      ∧ look State.events (exec .rd32Sio2Recv3 (world cardG false)) = some [.read32 0x00000000] := by
  decide

/-- V9c. -/
theorem test_recv_writes :
    look (fun t => t.blk.sio2.recv1) (exec (.wr32Sio2Recv1 0) (world cardG false)) = some 0x0001D100
      ∧ look (fun t => t.blk.sio2.recv2) (exec (.wr32Sio2Recv2 7) (world cardG false)) = some 0x0000000F
      ∧ look (fun t => t.blk.sio2.recv3) (exec (.wr32Sio2Recv3 7) (world cardG false)) = some 0x00000000 := by
  decide

/-- V80. -/
theorem test_hard_reset :
    exec .pinHardReset
        { world cardG false with
          blk := { Block.reset with sio2.slot := 2, fifoOut := [0x01, 0x02], sio0.stage := .working } }
      = .next (world cardG false) := rfl

/-- V9e. -/
theorem test_dma_set_block :
    look (fun t => t.blk.sio2.dmaBlockSize) (exec (.pinDmaSetBlock 36) (world cardG false)) = some 36 := by
  decide

/-- V74, V75. -/
theorem test_auto_eject :
    look ticks (exec (.pinAeSet 0 0) (setTicks 0 0 1 (world cardG false))) = some [2, 0, 0, 0, 0, 0, 0, 0]
      ∧ look ticks (exec .pinAeSetall (world cardG false)) = some [2, 2, 2, 2, 2, 2, 2, 2]
      ∧ look ticks (exec (.pinAeClear 1 3) (setAllTicks 2 (world cardG false))) = some [2, 2, 2, 2, 2, 2, 2, 0]
      ∧ look ticks (exec .pinAeClearall (setAllTicks 2 (world cardG false))) = some [0, 0, 0, 0, 0, 0, 0, 0] := by
  decide

/-- V76, both cases. -/
theorem test_checkpoint :
    look (fun t => (ticks t, t.blk.sio2.slot))
        (exec
          (.pinCheckpointLoad
            { imageOf { Block.reset with sio2.slot := 3 } with
              crc := setEntry (Vector.replicate 2 (Vector.replicate 4 0)) 0 2 1 })
          (world cardG false))
        = some ([2, 2, 2, 2, 2, 2, 2, 2], 3)
      ∧ look ticks (exec (.pinCheckpointLoad (imageOf Block.reset)) (setAllTicks 1 (world cardG false)))
        = some [0, 0, 0, 0, 0, 0, 0, 0] := by
  decide

/-! ### Single steps: frames -/

/-- V24. -/
theorem test_pad_frame :
    look reply (exec (.s2Pad [0x42, 0x00]) (frameG 3)) = some ([0xFF, 0x41, 0x5A], 0x00001100) := by decide

/-- V30. -/
theorem test_multitap_disabled :
    look (fun t => (reply t, t.blk.fifoIn))
        (exec (.s2MtapDisabled [0x21, 0x02, 0x00, 0x00]) (cycle 0x500 0 0 (world cardG false)))
      = some (([0x00, 0x00, 0x00, 0x00, 0x00], 0x0001D100), [0x21, 0x02, 0x00, 0x00]) := by
  decide

/-- V32. -/
theorem test_support_checks :
    look reply (exec (.mtapPadSupportCheck [0x00, 0x00, 0x00]) (frameG 5))
        = some ([0x00, 0x5A, 0x04, 0x00, 0x5A], 0x00001100)
      ∧ look reply (exec (.mtapMemcardSupportCheck [0x00, 0x00, 0x00]) (frameG 5))
        = some ([0x00, 0x5A, 0x04, 0x00, 0x5A], 0x00001100) := by
  decide

/-- V33. -/
theorem test_select :
    look (fun t => (reply t, t.blk.sio2.slot)) (exec (.mtapSelectPad 0x02 [0x00, 0x00, 0x00, 0x00]) (frameG 7))
        = some (([0x00, 0x5A, 0x00, 0x00, 0x02, 0x5A], 0x00001100), 2)
      ∧ look (fun t => (reply t, t.blk.sio2.slot)) (exec (.mtapSelectMemcard 0x03 []) (frameG 3))
        = some (([0x00, 0x5A, 0x00, 0x00, 0x03, 0x5A], 0x00001100), 3) := by
  decide

/-- V34. -/
theorem test_select_failure :
    look (fun t => (reply t, t.blk.sio2.slot)) (exec (.mtapSelectPad 0x80 []) { frameG 3 with blk.sio2.slot := 1 })
        = some (([0x00, 0x5A, 0x00, 0x00, 0xFF, 0x66], 0x00001100), 1)
      ∧ look (fun t => (reply t, t.blk.sio2.slot)) (exec (.mtapSelectMemcard 0x04 []) { frameG 3 with blk.sio2.slot := 2 })
        = some (([0x00, 0x5A, 0x00, 0x00, 0xFF, 0x66], 0x00001100), 2) := by
  decide

/-- V35. -/
theorem test_multitap_unknown :
    look reply (exec (.mtapUnknown 0x00 [0x00]) (frameG 3)) = some ([0x00], 0x00001100) := by decide

/-- V22. -/
theorem test_infrared :
    look (fun t => (reply t, cursor t)) (exec (.s2Infrared 0x00 [0x00, 0x00]) (frameG 4))
      = some (([0xFF, 0xFF, 0xFF, 0xFF], 0x0001D100), ⟨1, false, false, 4, [0x00, 0x00]⟩) := by
  decide

/-- V26: the same under DMA. -/
theorem test_infrared_dma :
    look reply
        (exec (.s2Infrared 0x00 [0x00, 0x00, 0x00, 0x00, 0x00, 0x00]) { frameG 4 with blk.sio2.dmaBlockSize := 8 })
      = some ([0xFF, 0xFF, 0xFF, 0xFF, 0x00, 0x00, 0x00, 0x00], 0x0001D100) := by
  decide

/-- V23. -/
theorem test_unknown_mode :
    look reply (exec (.s2UnknownMode 0x00 [0x00]) (frameG 2)) = some ([0x00], 0x0001D100) := by decide

/-- V40, V41. -/
theorem test_probe_and_end :
    look reply (exec (.mcProbe [0x00, 0x00]) (frameG 4)) = some ([0x00, 0x08, 0x2B, 0x55], 0x00001100)
      ∧ look reply (exec (.mcReadWriteEnd [0x00, 0x00]) (frameG 4)) = some ([0x00, 0x08, 0x2B, 0x55], 0x00001100) := by
  decide

/-- V42, V61, V62. -/
theorem test_short_replies :
    look reply (exec (.mcUnknownBoot [0x00, 0x00, 0x00]) (frameG 5)) = some ([0x00, 0x08, 0x00, 0x2B, 0x55], 0x00001100)
      ∧ look reply (exec (.mcAuthF3 [0x00, 0x00, 0x00]) (frameG 5)) = some ([0x00, 0x08, 0x00, 0x2B, 0x55], 0x00001100)
      ∧ look (fun t => (reply t, t.blk.fifoIn)) (exec (.mcAuthF7 [0x01, 0x00, 0x00]) (frameG 5))
        = some (([0x00, 0x08, 0x00, 0x2B, 0x55], 0x00001100), [0x01, 0x00, 0x00]) := by
  decide

/-- V42a. -/
theorem test_erase_block :
    look (fun t => (reply t, t.events, address t)) (exec (.mcEraseBlock [0x00, 0x00]) (atAddress 0x4200 (frameG 4)))
      = some (([0x00, 0x08, 0x2B, 0x55], 0x00001100), [.cardErase 0 0 0x4200], 0, 0x4200, false) := by
  decide

/-- V43. -/
theorem test_set_erase_sector :
    look (fun t => (reply t, address t)) (exec (.mcSetEraseSector 0x34 0x12 0x00 0x00 0x26 [0x00, 0x00]) (frameG 9))
      = some (([0x00, 0x08, 0x00, 0x00, 0x00, 0x00, 0x00, 0x2B, 0x55], 0x00001100), 0x1234, 0x00258B40, true) := by
  decide

/-- V45. -/
theorem test_set_erase_sector_wraps :
    look address (exec (.mcSetEraseSector 0xFF 0xFF 0xFF 0xFF 0x00 [0x00, 0x00]) (frameG 9))
      = some (0xFFFFFFFF, 0xFFFFFDF0, true) := by
  decide

/-- Program P2, its second frame. -/
theorem test_set_write_sector :
    look address (exec (.mcSetWriteSector 0x10 0x00 0x00 0x00 0x10 [0x00, 0x00]) (frameG 9))
      = some (0x10, 0x2100, true) := by
  decide

/-- V44. -/
theorem test_set_read_sector :
    look (fun t => (reply t, address t)) (exec (.mcSetReadSector 0x34 0x12 0x00 0x00 0x27 [0x00, 0x00]) (frameG 9))
      = some (([0x00, 0x08, 0x00, 0x00, 0x00, 0x00, 0x00, 0x2B, 0x55], 0x00001100), 0x1234, 0x00258B40, false) := by
  decide

/-- V46. -/
theorem test_get_specs :
    look reply (exec (.mcGetSpecs (List.replicate 11 0x00)) (frameG 13))
      = some ([0x00, 0x08, 0x2B, 0x00, 0x02, 0x10, 0x00, 0x00, 0x40, 0x00, 0x00, 0x52, 0x55], 0x00001100) := by
  decide

/-- V47. -/
theorem test_set_terminator :
    look (fun t => (reply t, (slotRec 0 0 t).term)) (exec (.mcSetTerminator 0xAA [0x00, 0x00]) (frameG 5))
      = some (([0x00, 0x08, 0x00, 0x2B, 0x55], 0x00001100), 0xAA) := by
  decide

/-- V48, its second frame. -/
theorem test_get_terminator :
    look reply
        (exec (.mcGetTerminator [0x00, 0x00, 0x00]) (setSlotRec 0 0 { SlotRecord.reset with term := 0xAA } (frameG 5)))
      = some ([0x00, 0x08, 0x2B, 0xAA, 0x55], 0x00001100) := by
  decide

/-- V65: a PS1-type card. -/
theorem test_get_terminator_ps1_card :
    look reply (exec (.mcGetTerminator [0x00, 0x00, 0x00]) (framePs1 5))
      = some ([0x00, 0x08, 0x00, 0x00, 0x00], 0x00001100) := by
  decide

/-- V52. -/
theorem test_write_data :
    look (fun t => (reply t, t.events))
        (exec (.mcWriteData 0x02 [0xAA, 0x0F, 0x00, 0x00, 0x00]) (atAddress 0x2100 (frameG 8)))
        = some (([0x00, 0x08, 0x00, 0x2B, 0x00, 0x00, 0xA5, 0x55], 0x00001100), [.cardSave 0 0 0x2100 [0xAA, 0x0F]])
      ∧ look (fun t => (address t, cardMem 0 0 t))
        (exec (.mcWriteData 0x02 [0xAA, 0x0F, 0x00, 0x00, 0x00]) (atAddress 0x2100 (frameG 8)))
        = some ((0, 0x2102, false), [(0x2100, 0xAA), (0x2101, 0x0F)]) := by
  decide

/-- V53. -/
theorem test_write_data_trailer :
    look reply
        (exec (.mcWriteData 0x02 [0xAA, 0x0F, 0x00, 0x00, 0x00])
          { atAddress 0x2100 (frameG 8) with params.writeDataTrailer := .reply2B })
      = some ([0x00, 0x08, 0x00, 0x2B, 0x00, 0x00, 0x2B, 0x55], 0x00001100) := by
  decide

/-- V54. -/
theorem test_read_data :
    look (fun t => (reply t, t.events, address t))
        (exec (.mcReadData 0x02 [0x00, 0x00, 0x00, 0x00, 0x00])
          (setCardMem 0 0 [(0x2100, 0xAA), (0x2101, 0x0F)] (atAddress 0x2100 (frameG 8))))
      = some (([0x00, 0x08, 0x00, 0x2B, 0xAA, 0x0F, 0xA5, 0x55], 0x00001100), [.cardRead 0 0 0x2100 2], 0, 0x2102,
          false) := by
  decide

/-- V51: no byte. -/
theorem test_read_data_empty :
    look reply (exec (.mcReadData 0x00 [0x00, 0x00, 0x00]) (frameG 6))
      = some ([0x00, 0x08, 0x00, 0x2B, 0x00, 0x55], 0x00001100) := by
  decide

/-- V68a. -/
theorem test_nested_ps1_read :
    look (fun t => (reply t, address t, t.blk.ps1.cursor, t.blk.sio0.stat))
        (exec (.mcPs1Read [0x00, 0x00, 0x00, 0x10]) (framePs1 6))
      = some (([0x00, 0x08, 0x5A, 0x5D, 0x00, 0x00], 0x00001100), (0x10, 0x800, true), 6, 0x00000080) := by
  decide

/-- V68b. -/
theorem test_nested_ps1_state :
    look (fun t => (reply t, t.blk.ps1.cursor, t.blk.sio0.stat)) (exec (.mcPs1State [0x00, 0x00, 0x00]) (framePs1 5))
      = some (([0x00, 0x08, 0x00, 0x00, 0x00], 0x00001100), 5, 0) := by
  decide

/-- V68e. -/
theorem test_nested_ps1_write :
    look (fun t => (t.blk.fifoOut.drop 134, t.events, address t, (slotRec 0 0 t).flag))
        (exec (.mcPs1Write ([0x00, 0x00, 0x00, 0x01] ++ List.replicate 128 0x5A ++ [0x00, 0x00, 0x00, 0x00]))
          (frameG 138))
      = some ([0x00, 0x5C, 0x5D, 0x47], [.cardSave 0 0 0x80 (List.replicate 128 0x5A)], (1, 0x80, true), 0x00) := by
  decide +kernel

/-- V68. -/
theorem test_nested_pocketstation :
    look (fun t => (reply t, t.blk.fifoIn)) (exec (.mcPs1Pocketstation [0x00, 0x00]) (framePs1 4))
      = some (([0x00, 0x08, 0x00], 0x0001D100), [0x00, 0x00]) := by
  decide

/-- V63, V67. -/
theorem test_memcard_unknown :
    look reply (exec (.mcUnknown 0x12 [0x00, 0x00]) (frameG 4)) = some ([0x00, 0x08], 0x00001100)
      ∧ look reply (exec (.mcUnknown 0x00 [0x00, 0x00]) (framePs1 4)) = some ([0x00, 0x08], 0x00001100) := by
  decide

/-- V57, V58: the sub-modes with the short shape. -/
theorem test_auth_xor_short :
    ∀ f ∈ [Instr.mcAuthXor00, .mcAuthXor03, .mcAuthXor05, .mcAuthXor08, .mcAuthXor09, .mcAuthXor0A, .mcAuthXor0C,
        .mcAuthXor0D, .mcAuthXor0E, .mcAuthXor10, .mcAuthXor12, .mcAuthXor14],
      look reply (exec (f [0x00, 0x00]) (frameG 5)) = some ([0x00, 0x08, 0x00, 0x2B, 0x55], 0x00001100) := by
  decide

/-- V59: the sub-modes with the long shape and no payload. -/
theorem test_auth_xor_long :
    ∀ f ∈ [Instr.mcAuthXor06, .mcAuthXor07, .mcAuthXor0B],
      look (fun t => (reply t, t.blk.fifoIn)) (exec (f (List.replicate 11 0x11)) (frameG 14))
        = some (([0x00, 0x08] ++ List.replicate 10 0x00 ++ [0x2B, 0x55], 0x00001100), List.replicate 11 0x11) := by
  decide

/-- V55: the sub-modes with the long shape and the payload's exclusive or. -/
theorem test_auth_xor_payload :
    ∀ f ∈ [Instr.mcAuthXor01, .mcAuthXor02, .mcAuthXor04, .mcAuthXor0F, .mcAuthXor11, .mcAuthXor13],
      look reply
          (exec (f [0x01, 0x02, 0x03, 0x04, 0x05, 0x06, 0x07, 0x08, 0x00, 0x00, 0x00]) (frameG 14))
        = some ([0x00, 0x08, 0x00, 0x2B] ++ List.replicate 8 0x00 ++ [0x08, 0x55], 0x00001100) := by
  decide

/-- V60. -/
theorem test_auth_xor_unknown :
    look reply (exec (.mcAuthXorUnknown 0x15 [0x00, 0x00]) (frameG 5)) = some ([0x00, 0x08], 0x00001100) := by decide

/-- V64 and V73: no card, and an armed slot without a card. -/
theorem test_dead_air :
    look (fun t => (reply t, t.blk.fifoIn, t.events))
        (exec (.mcGetTerminator [0x00, 0x00, 0x00]) (cycle 0x500 0 0 (world CardInput.absent false)))
        = some (([0x00, 0x00, 0x00, 0x00, 0x00], 0x0001D100), [], [])
      ∧ look (fun t => (reply t, ticks t))
          (exec (.mcProbe [0x00, 0x00]) (setTicks 0 0 2 (cycle 0x400 0 0 (world CardInput.absent false))))
        = some (([0x00, 0x00, 0x00, 0x00], 0x0001D100), [1, 0, 0, 0, 0, 0, 0, 0]) := by
  decide

/-! ### Single steps: transactions -/

/-- V15, its first three bytes. -/
theorem test_sio0_pad :
    look (fun t => (sio0View t, t.events)) (exec (.s0Pad 0x2 [0x00]) (world cardPs1 false))
      = some ((0x5A, 0x00000087, .working),
          [.padStart 0 0, .irq .sio0, .padPoll 0x42, .irq .sio0, .padPoll 0x00, .irq .sio0]) := by
  decide

/-- V16. -/
theorem test_sio0_pad_unknown :
    look (fun t => (sio0View t, t.events)) (exec (.s0PadUnknown 0x00) (world cardPs1 false))
      = some ((0xFF, 0x00000087, .idle), [.padStart 0 0, .irq .sio0, .irq .sio0]) := by
  decide

/-- Program P3's first eight bytes. -/
theorem test_sio0_ps1_read :
    look (fun t => (sio0View t, address t, t.blk.ps1.cursor))
        (exec (.s0Ps1Read [0x00, 0x00, 0x00, 0x02, 0x00, 0x00]) (world cardPs1 false))
      = some ((0x5D, 0x00000087, .working), (2, 0x100, true), 8) := by
  decide

/-- V14. -/
theorem test_sio0_ps1_state :
    look (fun t => (sio0View t, t.blk.sio0.command, t.blk.ps1.cursor))
        (exec (.s0Ps1State [0x00, 0xAA]) (world cardPs1 false))
      = some ((0x00, 0x00000087, .working), 0x53, 4) := by
  decide

/-- Program P4 (b): a checksum mismatch saves nothing. -/
theorem test_sio0_ps1_write_mismatch :
    look (fun t => (sio0View t, (slotRec 0 0 t).flag, cardMem 0 0 t))
        (exec (.s0Ps1Write ([0x00, 0x00, 0x01, 0x02] ++ List.replicate 128 0xA0 ++ [0x01, 0x00, 0x00, 0x00]))
          (world cardPs1 false))
      = some ((0x4E, 0x00000087, .working), 0x08, []) := by
  decide +kernel

/-- Program P4 (c): a bad sector. -/
theorem test_sio0_ps1_write_bad_sector :
    look (fun t => (sio0View t, address t, cardMem 0 0 t))
        (exec (.s0Ps1Write ([0x00, 0x00, 0x04, 0x00] ++ List.replicate 128 0xA0 ++ [0x00, 0x00, 0x00, 0x00]))
          (world cardPs1 false))
      = some ((0xFF, 0x00000087, .working), (0x400, 0x20000, false), []) := by
  decide +kernel

/-- V13. -/
theorem test_sio0_pocketstation :
    look (fun t => (sio0View t, t.blk.sio0.sioMode)) (exec .s0Ps1Pocketstation (world cardPs1 false))
      = some ((0x00, 0x00000087, .idle), .notSet) := by
  decide

/-- V12. -/
theorem test_sio0_memcard_unknown :
    look sio0View (exec (.s0MemcardUnknown 0x11) (world cardPs1 false)) = some (0xFF, 0x00000087, .idle) := by
  decide

/-- V10. -/
theorem test_sio0_unknown_mode :
    look sio0View (exec (.s0UnknownMode 0x21) (world cardPs1 false)) = some (0x00, 0x00000007, .idle) := by decide

/-- V68d: the whole of a Read. -/
theorem test_nested_ps1_read_whole :
    look (fun t => t.blk.fifoOut.drop 8)
        (exec (.mcPs1Read ([0x00, 0x00, 0x00, 0x02] ++ List.replicate 134 0x00))
          (setCardMem 0 0 ((List.range 128).map fun i => (0x100 + i, BitVec.ofNat 8 (3 * i + 1))) (framePs1 140)))
      = some ([0x00, 0x02] ++ (List.range 128).map (fun i => BitVec.ofNat 8 (3 * i + 1)) ++ [0x00, 0x47]) := by
  decide +kernel

/-! ### Witnesses: states and operands that meet the hypotheses of each statement

Each names the statement; where a statement has several clauses, the boundary of each is met. -/

theorem witness_DecodeOfEncode :
    Instr.wf (.mcUnknown 0x12 [0x00]) = true ∧ Instr.wf (.mcAuthXorUnknown 0x15 []) = true
      ∧ Instr.wf (.s2MtapDisabled [0x12]) = true ∧ Instr.multitapCondition (.s2MtapDisabled [0x12]) = false := by
  decide

theorem witness_EncodeOfDecode :
    decode true (.frame [0x81, 0xF0, 0x14]) = .ok (.mcAuthXor14 [])
      ∧ decode false (.frame [0x21]) = .ok (.s2MtapDisabled []) := by
  decide

/-- A stream whose next operation is a CTRL read. -/
def ctrlReadNext : State := sending (.read 0x1F808268 32) (world cardG true)

theorem witness_StepRunsDecodedInstruction :
    ctrlReadNext.pending = { packet := .read 0x1F808268 32, inputs := ctrlReadNext.inputs } :: []
      ∧ decode (multitapLine (takeOp { packet := .read 0x1F808268 32, inputs := ctrlReadNext.inputs } [] ctrlReadNext))
          (.read 0x1F808268 32) = .ok .rd32Sio2Ctrl :=
  ⟨rfl, by decide⟩

theorem witness_StepWithoutInstruction :
    (world cardG true).pending = []
      ∧ (sending (.frame [0x81]) (world cardG true)).pending
        = { packet := .frame [0x81], inputs := (world cardG true).inputs } :: []
      ∧ decode (multitapLine (takeOp { packet := .frame [0x81], inputs := (world cardG true).inputs } []
          (sending (.frame [0x81]) (world cardG true)))) (.frame [0x81]) = .error .patternTooShort :=
  ⟨rfl, rfl, by decide⟩

theorem witness_FramesAndTransactionsAreTheirBytes :
    encode (.mcProbe [0x00]) = .frame [0x81, 0x11, 0x00] ∧ encode (.s0Pad 0x2 []) = .transaction [0x01, 0x42] := by
  decide

/-- A stream whose next operation writes four bytes to a card. -/
def writeNext : State :=
  sending (.frame [0x81, 0x42, 0x04, 0xDE, 0xAD, 0xBE, 0xEF]) (atAddress 0xFFFFFFFE (frameG 7))

theorem witness_StepKeepsWellFormed : State.wf writeNext = true ∧ ∃ t, step writeNext = .next t :=
  ⟨by decide, _, next_of (by decide)⟩

theorem witness_StepKeepsSound :
    State.sound writeNext = true ∧ (∃ t, step writeNext = .next t)
      ∧ ∀ op rest image, writeNext.pending = op :: rest →
        fetch op.packet (takeOp op rest writeNext) ≠ .ok (.pinCheckpointLoad image) := by
  refine ⟨by decide, ⟨_, next_of (by decide)⟩, ?_⟩
  intro op rest image h
  obtain ⟨rfl, rfl⟩ := List.cons.inj h
  intro hf
  exact absurd (hf.symm.trans (rfl : fetch _ _ = .ok (.mcWriteData 0x04 [0xDE, 0xAD, 0xBE, 0xEF])))
    (by intro hc; injection hc with hc; injection hc)

theorem witness_TxAlwaysAnswers :
    State.sound (inBody 0x57 137 (world cardPs1 true)) = true ∧ encode .s0Ps1Pocketstation = .transaction [0x81, 0x58] := by
  decide

theorem witness_OnlyOneRefusal :
    (∀ bytes, encode .rd8Sio2DataOut ≠ .frame bytes) ∧ ∀ b, Instr.rd8Sio2DataOut ≠ .wr8Sio2DataIn b := by
  refine ⟨?_, ?_⟩ <;> intro _ h <;> cases h

theorem witness_TxModeByte :
    sio0Idle (world cardPs1 false) = true ∧ (0x00 : Byte) ≠ 0x01 ∧ (0x00 : Byte) ≠ 0x81 := by decide

/-- The three arms of the MEMCARD mode byte: armed, without a PS1-type card, answering. -/
theorem witness_TxMemcardModeByte :
    (sio0Idle (setTicks 0 0 1 (world cardPs1 false)) = true
        ∧ 0 < (slotRec 0 0 (setTicks 0 0 1 (world cardPs1 false))).autoEjectTicks)
      ∧ (sio0Idle (world cardG false) = true
        ∧ ((cardInput 0 0 (world cardG false)).present && (cardInput 0 0 (world cardG false)).isPSX) = false)
      ∧ sio0Idle (world cardPs1 false) = true ∧ ps1Answers (world cardPs1 false) = true := by
  decide

theorem witness_TxPadByte :
    sio0Expects .pad (inStage .waitingCommand .pad 0 (world cardG false)) = true
      ∧ txGated (inStage .working .pad 0 (world cardG false)) = false
      ∧ (inStage .working .pad 0 (world cardG false)).blk.sio0.stage = .working
      ∧ (inStage .working .pad 0 (world cardG false)).blk.sio0.sioMode = .pad
      ∧ (∀ b ∈ ([0x40, 0x4F] : List Byte), 0x40 ≤ b.toNat ∧ b.toNat ≤ 0x4F)
      ∧ ∀ b ∈ ([0x3F, 0x50] : List Byte), ¬(0x40 ≤ b.toNat ∧ b.toNat ≤ 0x4F) := by
  decide

theorem witness_TxMemcardCommand :
    sio0Expects .memcard (inStage .waitingCommand .memcard 0 (world cardPs1 false)) = true := by decide

/-- The three combinations outside the table of R130. -/
theorem witness_TxDesync :
    (let s := inStage .waitingCommand .notSet 0 (world cardG false)
     txGated s = false ∧ s.blk.sio0.stage = .waitingCommand ∧ s.blk.sio0.sioMode = .notSet)
      ∧ (let s := inStage .working .notSet 0 (world cardG false)
         txGated s = false ∧ s.blk.sio0.stage = .working ∧ s.blk.sio0.sioMode = .notSet)
      ∧ ∀ c ∈ ([0x51, 0x54, 0x58] : List Byte),
          let s := inStage .working .memcard c (world cardG false)
          txGated s = false ∧ s.blk.sio0.stage = .working ∧ s.blk.sio0.sioMode = .memcard
            ∧ s.blk.sio0.command ∉ ([0x52, 0x53, 0x57] : List Byte) := by
  decide

/-- Every position a clause names, the ends of the data bytes and the first past the layout. -/
theorem witness_TxPs1Read :
    ∀ pos ∈ [2, 3, 4, 5, 6, 7, 8, 9, 10, 11, 137, 138, 139, 140],
      ps1At 0x52 pos (inBody 0x52 pos (world cardPs1 false)) = true := by
  decide

theorem witness_TxPs1Write :
    ∀ pos ∈ [2, 3, 4, 5, 6, 133, 134, 135, 136, 138],
      ps1At 0x57 pos (inBody 0x57 pos (world cardPs1 false)) = true := by
  decide

/-- At the last byte of a Write: a mismatch, a bad sector, a commit. -/
def atCommit (expected : Byte) (good : Bool) : State :=
  let s := inBody 0x57 137 (world cardPs1 false)
  setSlotRec 0 0 { slotRec 0 0 s with goodSector := good, transferAddr := 0xFFFFFFC0 }
    { s with blk.ps1.expected := expected }

theorem witness_TxPs1WriteCommit :
    (∀ e ∈ ([0x00, 0x01] : List Byte), ∀ g ∈ [true, false],
      State.wf (atCommit e g) = true ∧ ps1At 0x57 137 (atCommit e g) = true)
      ∧ (atCommit 0x01 true).blk.ps1.expected ≠ (atCommit 0x01 true).blk.ps1.checksum
      ∧ (atCommit 0x00 false).blk.ps1.expected = (atCommit 0x00 false).blk.ps1.checksum
      ∧ (slotRec (sio0Port (atCommit 0x00 false)) 0 (atCommit 0x00 false)).goodSector = false
      ∧ (atCommit 0x00 true).blk.ps1.expected = (atCommit 0x00 true).blk.ps1.checksum
      ∧ (slotRec (sio0Port (atCommit 0x00 true)) 0 (atCommit 0x00 true)).goodSector = true := by
  decide

theorem witness_Ps1StateCommand :
    ps1At 0x53 2 (inBody 0x53 2 (world cardPs1 false)) = true ∧ sio0Idle (world cardPs1 false) = true
      ∧ ps1Answers (world cardPs1 false) = true := by
  decide

theorem witness_ShortTransactions :
    sio0Idle (world cardPs1 false) = true ∧ ps1Answers (world cardPs1 false) = true
      ∧ ¬(0x40 ≤ (0x50 : Byte).toNat ∧ (0x50 : Byte).toNat ≤ 0x4F)
      ∧ (0x59 : Byte) ∉ ([0x52, 0x53, 0x57, 0x58] : List Byte) := by
  decide

theorem witness_PadTransaction : sio0Idle (world cardG false) = true := by decide

theorem witness_Ps1ReadTransaction :
    sio0Idle (world cardPs1 false) = true ∧ ps1Answers (world cardPs1 false) = true
      ∧ (List.replicate 138 (0x00 : Byte)).length = 138 := by
  decide +kernel

/-- 136 body bytes of zeros carry a matching checksum and a good sector: the status is 0x47. -/
theorem witness_Ps1WriteTransaction :
    State.wf (world cardPs1 false) = true ∧ sio0Idle (world cardPs1 false) = true
      ∧ ps1Answers (world cardPs1 false) = true
      ∧ (List.replicate 136 (0x00 : Byte)).getD 132 0
        = seed (world cardPs1 false) 0x00 0x00 ^^^ xorOf (((List.replicate 136 (0x00 : Byte)).drop 4).take 128) := by
  decide +kernel

/-- The clauses in their order; the last entry of the table and the place past it. -/
theorem witness_DataInFraming :
    (let s := { frameG 4 with blk.sio2.send3Read := true, blk.sio2.send3Complete := true }
     s.blk.sio2.send3Read = true ∧ s.blk.sio2.send3Complete = true)
      ∧ (let s := { frameG 4 with blk.sio2.send3Position := 16 }
         s.blk.sio2.send3Read = false ∧ 16 ≤ s.blk.sio2.send3Position)
      ∧ (let s := { frameG 4 with blk.sio2.send3Position := 15 }
         s.blk.sio2.send3Read = false ∧ s.blk.sio2.send3Complete = false
           ∧ s.blk.sio2.send3Position = (15 : Fin 16).val ∧ s.blk.sio2.send3[(15 : Fin 16)].toNat / 256 % 512 = 0)
      ∧ (let s := frameG 2
         s.blk.sio2.send3Read = false ∧ s.blk.sio2.send3Complete = false ∧ s.blk.sio2.send3Position = (0 : Fin 16).val
           ∧ s.blk.sio2.send3[(0 : Fin 16)].toNat / 256 % 512 = 2 ∧ s.blk.sio2.dmaBlockSize = 0)
      ∧ (∀ i ∈ ([0, 15] : List (Fin 16)),
          let s := { frameG 4 with blk.sio2.send3Position := i.val, blk.sio2.send3Complete := true }
          s.blk.sio2.send3Read = false ∧ s.blk.sio2.send3Complete = true ∧ s.blk.sio2.send3Position = i.val)
      ∧ (let s := { frameG 4 with blk.sio2.send3Read := true, blk.sio2.commandLength := 4, blk.fifoIn := [0x81, 0x11] }
         s.blk.sio2.send3Read = true ∧ s.blk.sio2.send3Complete = false
           ∧ s.blk.fifoIn.length + 1 ≠ (if s.blk.sio2.dmaBlockSize = 0 then s.blk.sio2.commandLength
             else s.blk.sio2.dmaBlockSize)) := by
  decide

theorem witness_CheckpointLoad :
    (∃ p q, (cardInput p q (world cardG false)).crc
        ≠ entryAt { imageOf Block.reset with
            crc := setEntry (Vector.replicate 2 (Vector.replicate 4 0)) 1 3 1 }.crc p q)
      ∧ ∀ p q, (cardInput p q (world cardG false)).crc = entryAt (imageOf Block.reset).crc p q := by
  decide

theorem witness_AutoEjectCountsItsAccesses :
    sio0Idle (world cardPs1 false) = true
      ∧ ((cardInput (sio0Port (world cardPs1 false)) 0 (world cardPs1 false)).present
        && (cardInput (sio0Port (world cardPs1 false)) 0 (world cardPs1 false)).isPSX) = true
      ∧ 0 < (world cardPs1 false).params.autoEjectTicks := by
  decide

/-- A TX_DATA write, a transaction, both settings of a CTRL write. -/
theorem witness_InterruptRequests :
    (∃ t, exec (.wr8Sio0TxData 0x81) (world cardPs1 false) = .next t)
      ∧ (∃ t, exec (.s0Ps1State [0x00]) (world cardPs1 false) = .next t)
      ∧ ∃ t, exec (.wr32Sio2Ctrl 0x3BC) (world cardPs1 false) = .next t :=
  ⟨⟨_, next_of (by decide)⟩, ⟨_, next_of (by decide)⟩, _, next_of (by decide)⟩

theorem witness_EnvironmentUnchanged :
    (∃ t, exec .pinAeSetall (world cardG false) = .next t) ∧ Instr.pinAeSetall ≠ .pinHardReset
      ∧ (∀ image, Instr.pinAeSetall ≠ .pinCheckpointLoad image) ∧ (∀ bytes, encode .pinAeSetall ≠ .frame bytes)
      ∧ (∀ bytes, encode .pinAeSetall ≠ .transaction bytes) ∧ (∀ b, Instr.pinAeSetall ≠ .wr8Sio0TxData b)
      ∧ ∀ b, Instr.pinAeSetall ≠ .wr8Sio2DataIn b := by
  refine ⟨⟨_, next_of (by decide)⟩, by decide, ?_, ?_, ?_, ?_, ?_⟩ <;> intro _ h <;> cases h

theorem witness_SlotChangesByMultitapAlone :
    ((∃ t, exec .rd32Sio2Ctrl (world cardG true) = .next t) ∧ (∀ bytes, encode .rd32Sio2Ctrl ≠ .frame bytes)
        ∧ (∀ b, Instr.rd32Sio2Ctrl ≠ .wr8Sio2DataIn b) ∧ Instr.rd32Sio2Ctrl ≠ .pinHardReset
        ∧ ∀ image, Instr.rd32Sio2Ctrl ≠ .pinCheckpointLoad image)
      ∧ encode (.mcProbe [0x00, 0x00]) = .frame (0x81 :: [0x11, 0x00, 0x00]) ∧ (0x81 : Byte) ≠ 0x21
      ∧ frameReady 4 (frameG 4) = true ∧ ∃ t, exec (.mcProbe [0x00, 0x00]) (frameG 4) = .next t := by
  refine ⟨⟨⟨_, next_of (by decide)⟩, ?_, ?_, by decide, ?_⟩, by decide, by decide, by decide, _, next_of (by decide)⟩
    <;> intro _ h <;> cases h

theorem witness_PathsAreSeparate :
    (∃ t, exec (.wr8Sio0TxData 0x81) (world cardPs1 false) = .next t)
      ∧ (encode (.s0Ps1State []) = .transaction [0x81, 0x53] ∧ ∃ t, exec (.s0Ps1State []) (world cardPs1 false) = .next t)
      ∧ (∃ t, exec (.wr8Sio2DataIn 0x81) (framePs1 4) = .next t)
      ∧ encode (.mcPs1Read [0x00]) = .frame [0x81, 0x52, 0x00] ∧ ∃ t, exec (.mcPs1Read [0x00]) (framePs1 3) = .next t :=
  ⟨⟨_, next_of (by decide)⟩, ⟨by decide, _, next_of (by decide)⟩, ⟨_, next_of (by decide)⟩, by decide, _,
    next_of (by decide)⟩

/-- Direct, and under DMA. -/
theorem witness_FrameEnds :
    encode (.mcProbe [0x00, 0x00]) = .frame [0x81, 0x11, 0x00, 0x00]
      ∧ (frameReady 4 (frameG 4) = true ∧ ∃ t, exec (.mcProbe [0x00, 0x00]) (frameG 4) = .next t)
      ∧ frameReady 4 { frameG 9 with blk.sio2.dmaBlockSize := 4 } = true
      ∧ ∃ t, exec (.mcProbe [0x00, 0x00]) { frameG 9 with blk.sio2.dmaBlockSize := 4 } = .next t :=
  ⟨by decide, ⟨by decide, _, next_of (by decide)⟩, by decide, _, next_of (by decide)⟩

/-- The last entry of the table, too. -/
theorem witness_PadFrame :
    frameReady ([] : List Byte).length.succ (frameG 1) = true
      ∧ frameReady 3 { frameG 0 with
          blk.sio2.send3 := Vector.replicate 16 0x300, blk.sio2.send3Position := 15 } = true := by
  decide

theorem witness_NoDeviceFrames :
    frameReady 2 (frameG 2) = true ∧ frameReady 1 (frameG 1) = true
      ∧ (0x00 : Byte) ∉ ([0x01, 0x21, 0x61, 0x81] : List Byte) := by
  decide

theorem witness_MultitapSilence :
    (frameReady 1 (cycle 0x100 0 0 (world cardG false)) = true
        ∧ multitapEnabled (nextPort (cycle 0x100 0 0 (world cardG false))) (cycle 0x100 0 0 (world cardG false)) = false)
      ∧ frameReady 2 (frameG 2) = true ∧ multitapEnabled (nextPort (frameG 2)) (frameG 2) = true
      ∧ (0x14 : Byte) ∉ ([0x12, 0x13, 0x21, 0x22] : List Byte) := by
  decide

theorem witness_MultitapSupportCheck :
    frameReady 2 (frameG 2) = true ∧ multitapEnabled (nextPort (frameG 2)) (frameG 2) = true := by decide

theorem witness_MultitapSelect :
    frameReady 3 (frameG 3) = true ∧ multitapEnabled (nextPort (frameG 3)) (frameG 3) = true
      ∧ (0x03 : Byte).toNat < 4 ∧ 4 ≤ (0x04 : Byte).toNat := by
  decide

/-- An armed slot, and an empty one. -/
theorem witness_MemcardDeadAir :
    encode (.mcProbe [0x00, 0x00]) = .frame (0x81 :: [0x11, 0x00, 0x00])
      ∧ (frameReady 4 (setTicks 0 0 1 (frameG 4)) = true ∧ 0 < (nextSlot (setTicks 0 0 1 (frameG 4))).autoEjectTicks)
      ∧ let s := cycle 0x400 0 0 (world CardInput.absent true)
        frameReady 4 s = true ∧ (nextSlot s).autoEjectTicks = 0 ∧ (nextCard s).present = false := by
  decide

theorem witness_Ps1TypeGuard :
    encode (.mcWriteData 0x04 []) = .frame (0x81 :: 0x42 :: [0x04])
      ∧ (0x42 : Byte) ∈ ([0x11, 0x21, 0x22, 0x23, 0x26, 0x27, 0x28, 0x42, 0x43, 0x81, 0x82, 0xBF, 0xF0, 0xF3, 0xF7] :
        List Byte)
      ∧ frameReady 3 (framePs1 3) = true ∧ cardAnswers (framePs1 3) = true ∧ (nextCard (framePs1 3)).isPSX = true := by
  decide

/-- The shortest frames: for PlainReplies, EraseBlock, GetSpecs, Terminators and SmallMemcardFrames. -/
theorem witness_two_byte_frames :
    ∀ s ∈ [frameG 2, framePs1 2],
      State.wf s = true ∧ frameReady 2 s = true ∧ cardAnswers s = true ∧ alreadyCounted s = 0 := by
  decide

theorem witness_card_types : (nextCard (frameG 2)).isPSX = false ∧ (nextCard (framePs1 2)).isPSX = true := by decide

theorem witness_SmallMemcardFrames : Instr.wf (.mcUnknown 0x12 []) = true := by decide

/-- Each clause: payloads of 8 and of 7 bytes, the first unknown sub-mode. -/
theorem witness_AuthXorShapes :
    encode (.mcAuthXor14 []) = .frame (0x81 :: 0xF0 :: 0x14 :: [])
      ∧ encode (.mcAuthXor0B []) = .frame (0x81 :: 0xF0 :: 0x0B :: [])
      ∧ encode (.mcAuthXor13 (List.replicate 8 0x00)) = .frame (0x81 :: 0xF0 :: 0x13 :: List.replicate 8 0x00)
      ∧ encode (.mcAuthXor01 (List.replicate 7 0x00)) = .frame (0x81 :: 0xF0 :: 0x01 :: List.replicate 7 0x00)
      ∧ encode (.mcAuthXorUnknown 0x15 []) = .frame (0x81 :: 0xF0 :: 0x15 :: []) ∧ 0x14 < (0x15 : Byte).toNat
      ∧ ∀ n ∈ [3, 10, 11],
        frameReady n (frameG n) = true ∧ cardAnswers (frameG n) = true ∧ (nextCard (frameG n)).isPSX = false := by
  decide

/-- The shortest frames with an operand: SetSector of 7 bytes, SetTerminator, WriteData and ReadData of 3; for WriteData
as many bytes as the length, and one fewer. -/
theorem witness_operand_frames :
    (∀ n ∈ [3, 7], ∀ s ∈ [frameG n, framePs1 n],
      State.wf s = true ∧ frameReady n s = true ∧ cardAnswers s = true)
      ∧ ([0xAA] : List Byte).length < (0x02 : Byte).toNat
      ∧ (0x02 : Byte).toNat ≤ ([0xAA, 0x0F] : List Byte).length := by
  decide

/-- A byte the block saved, and a read the backend refuses. -/
theorem witness_ReadData :
    (let s := setCardMem 0 0 [(0x2100, 0xAA)] (atAddress 0x2100 (frameG 3))
     frameReady 3 s = true ∧ cardAnswers s = true ∧ (nextCard s).isPSX = false ∧ (nextCard s).admitsRead = true
       ∧ Memory.byteAt (cardMem (nextPort s) s.blk.sio2.slot s) (0x2100 + BitVec.ofNat 32 0 : Word).toNat = some 0xAA)
      ∧ (nextCard (cycle 0x300 0 0 (world { cardG with admitsRead := false } true))).admitsRead = false := by
  decide

/-- The whole layouts, and frames that stop before the address. -/
theorem witness_nested_ps1_frames :
    ∀ n ∈ [2, 5, 6, 138, 140, 141],
      State.wf (framePs1 n) = true ∧ frameReady n (framePs1 n) = true ∧ cardAnswers (framePs1 n) = true := by
  decide

/-- The cycle of program P2 in one: write at sector 1, select it again, read. -/
theorem witness_WriteThenReadAnswersTheBytes :
    let s := atAddress 0x210 (cycle 0x700 0x700 0x300 (world cardG true))
    let r := s.blk.sio2
    State.wf s = true ∧ r.send3Read = false ∧ r.send3Complete = false ∧ r.dmaBlockSize = 0 ∧ r.send3Position = 0
      ∧ entryLength r.send3[0] = ([0xDE, 0xAD, 0xBE, 0xEF] : List Byte).length + 3
      ∧ entryLength r.send3[1] = ([] : List Byte).length + 7
      ∧ entryLength r.send3[2] = ([] : List Byte).length + 3
      ∧ entryPort r.send3[1] = entryPort r.send3[0] ∧ entryPort r.send3[2] = entryPort r.send3[0]
      ∧ cardAnswers s = true ∧ (nextCard s).isPSX = false
      ∧ (nextCard s).admitsSave = true ∧ (nextCard s).admitsRead = true
      ∧ (nextSlot s).transferAddr =
        sectorByteAddress (nextCard s).geometry s.params.eccBytes (wordOfBytes 0x01 0x00 0x00 0x00)
      ∧ (0x04 : Byte).toNat ≤ ([0xDE, 0xAD, 0xBE, 0xEF] : List Byte).length := by
  decide

end Sys2Proof.Tests
end

section
/-! What each part of a PS2-native command does, said once: the pops, the reads of the card, the guard for a PS1-type
card, the replies, and how the DMA fill passes by the writes of records and cards. -/

namespace Sys2Proof.Machine

/-! ### Pops, the trailer, reads of the card -/

section Operations

variable (s : State)

theorem popInN_of_lt (n : Nat) (k : List Byte → State → Result) (h : s.blk.fifoIn.length < n) :
    popInN n s k = .refused .frameTooShort :=
  if_pos h

/-- The byte before the terminator of a WriteData reply, by WRITE_DATA_TRAILER (R218). -/
theorem writeTrailer_eq (bytes : List Byte) :
    writeTrailer bytes s = if s.params.writeDataTrailer = .checksum then xorOf bytes else 0x2B := by
  unfold writeTrailer
  cases s.params.writeDataTrailer <;> rfl

/-- A read the backend refuses gives zeros (R8). -/
theorem cardReadBytes_of_refused (p : Port) (q : Slot) (addr : Word) (n : Nat)
    (h : (cardInput p q s).admitsRead = false) : cardReadBytes p q addr n s = List.replicate n 0x00 := by
  simp [cardReadBytes, h]

/-- An admitted read gives each byte the block saved as it was saved (R47). -/
theorem getElem?_cardReadBytes_of_saved (p : Port) (q : Slot) (addr : Word) (n k : Nat) (b : Byte)
    (h : (cardInput p q s).admitsRead = true) (hk : k < n)
    (hb : Memory.byteAt (cardMem p q s) (addr + BitVec.ofNat 32 k).toNat = some b) :
    (cardReadBytes p q addr n s)[k]? = some b := by
  have hbyte : cardByte p q s (addr + BitVec.ofNat 32 k) = b := by simp only [cardByte, hb]
  simp [cardReadBytes, h, transferAddresses, hk, hbyte]

end Operations

/-! ### The DMA fill writes fifoOut alone -/

section Fill

variable (s : State)

theorem sio2DmaPad_emit (e : Event) : sio2DmaPad (emit e s) = emit e (sio2DmaPad s) := by
  simp only [sio2DmaPad_eq]
  rfl

theorem sio2DmaPad_setCards (t : SlotTable Memory) : sio2DmaPad (setCards t s) = setCards t (sio2DmaPad s) := by
  simp only [sio2DmaPad_eq]
  rfl

theorem sio2DmaPad_drawFree : sio2DmaPad (drawFree s) = drawFree (sio2DmaPad s) := by
  simp only [sio2DmaPad_eq]
  rfl

theorem sio2DmaPad_setSlotRec (p : Port) (q : Slot) (r : SlotRecord) :
    sio2DmaPad (setSlotRec p q r s) = setSlotRec p q r (sio2DmaPad s) := by
  simp only [sio2DmaPad_eq]
  rfl

end Fill

/-! ### The guard for a PS1-type card, and the ends of a native command -/

section Native

variable (s : State) (rest : List Byte)

/-- On a PS2-type card the command itself runs (R204). -/
theorem ps1TypeGuard_of_ps2 (p : Port) (q : Slot) (base : Nat) (command : State → Result)
    (h : (cardInput p q s).isPSX = false) : ps1TypeGuard p q base s command = command s := by
  simp [ps1TypeGuard, h]

/-- The type of the addressed card is the same at the start of its frame. -/
theorem isPSX_memcardStart {b : Bool} (h : (nextCard s).isPSX = b) :
    (cardInput (nextPort s) s.blk.sio2.slot (memcardStart s rest)).isPSX = b := h

/-- The whole frame of a native command on a PS1-type card: the guard's reply, and no operand popped (R204). -/
theorem ps1TypeGuard_of_ps1 (command : State → Result) (h : (nextCard s).isPSX = true) :
    andThen (ps1TypeGuard (nextPort s) s.blk.sio2.slot (replyBase s) (memcardStart s rest) command)
        (fun t => .next (sio2DmaPad t)) =
      .next (frameDone s 0x00001100 (guardReply s) rest) := by
  have hzeros : nextLength s - (2 + alreadyCounted s) = nextLength s - 2 - alreadyCounted s := by omega
  have hdone := memcardStart_done s rest (List.replicate (nextLength s - 2 - alreadyCounted s) 0x00) rest
  rw [ps1TypeGuard, if_pos (isPSX_memcardStart s rest h), andThen_next, padReplyTo_eq, queued_memcardStart,
    memcardStart_commandLength, hzeros]
  exact congrArg _ hdone

/-- The whole frame of a command that ends in the plain reply (R172). -/
theorem endReply_done (total : Nat) (leftover : List Byte) :
    sio2DmaPad
        (endReply total (replyBase s) (nextPort s) s.blk.sio2.slot (setFifoIn leftover (memcardStart s rest))) =
      frameDone s 0x00001100 (plainReply total s) leftover := by
  have hzeros : total - 2 - (2 + alreadyCounted s) = total - 4 - alreadyCounted s := by omega
  rw [endReply, twoBTerminator_eq, setFifoIn_fifoOut, queued_memcardStart, hzeros, memcardStart_done, plainReply,
    List.append_assoc]
  rfl

/-- A reply queued and the addressed slot's record replaced. -/
theorem memcardStart_doneSlot (r : SlotRecord) (reply leftover : List Byte) :
    sio2DmaPad
        (setSlotRec (nextPort s) s.blk.sio2.slot r (pushOut reply (setFifoIn leftover (memcardStart s rest)))) =
      frameDoneSlot s r (preamble s ++ reply) leftover := by
  rw [sio2DmaPad_setSlotRec, memcardStart_done]
  rfl

end Native

end Sys2Proof.Machine
end

section
/-! AuthXor: the shape of each class of sub-modes, and obligation O49. -/

namespace Sys2Proof.Machine

/-! ### The class of a sub-mode (R74) -/

section Classes

variable (sub : Byte)

theorem authClassOf_of_short
    (h : sub ∈ ([0x00, 0x03, 0x05, 0x08, 0x09, 0x0A, 0x0C, 0x0D, 0x0E, 0x10, 0x12, 0x14] : List Byte)) :
    authClassOf sub = .short := by
  revert sub
  decide

theorem authClassOf_of_longNoXor (h : sub ∈ ([0x06, 0x07, 0x0B] : List Byte)) : authClassOf sub = .longNoXor := by
  revert sub
  decide

theorem authClassOf_of_longXor (h : sub ∈ ([0x01, 0x02, 0x04, 0x0F, 0x11, 0x13] : List Byte)) :
    authClassOf sub = .longXor := by
  revert sub
  decide

/-- No listed sub-mode is above 0x14. -/
theorem authClassOf_of_gt (h : 0x14 < sub.toNat) : authClassOf sub = .unknown := by
  revert sub
  decide

end Classes

/-! ### The command by the class, on a PS2-type card (R226) -/

section Shapes

variable {s : State} {p : Port} {q : Slot} {sub : Byte} {rest : List Byte} (base : Nat)

theorem mcAuthXor_of_short (hg : (cardInput p q s).isPSX = false) (hf : s.blk.fifoIn = sub :: rest)
    (hc : authClassOf sub = .short) :
    mcAuthXor p q base s = .next (endReply 5 base p q (setFifoIn rest s)) := by
  simp [mcAuthXor, ps1TypeGuard_of_ps2, hg, popIn_cons s sub rest _ hf, hc]

theorem mcAuthXor_of_longNoXor (hg : (cardInput p q s).isPSX = false) (hf : s.blk.fifoIn = sub :: rest)
    (hc : authClassOf sub = .longNoXor) :
    mcAuthXor p q base s = .next (endReply 14 base p q (setFifoIn rest s)) := by
  simp [mcAuthXor, ps1TypeGuard_of_ps2, hg, popIn_cons s sub rest _ hf, hc]

theorem mcAuthXor_of_longXor (hg : (cardInput p q s).isPSX = false) (hf : s.blk.fifoIn = sub :: rest)
    (hc : authClassOf sub = .longXor) :
    mcAuthXor p q base s = mcAuthLongXor p q (setFifoIn rest s) := by
  simp [mcAuthXor, ps1TypeGuard_of_ps2, hg, popIn_cons s sub rest _ hf, hc]

theorem mcAuthXor_of_unknown (hg : (cardInput p q s).isPSX = false) (hf : s.blk.fifoIn = sub :: rest)
    (hc : authClassOf sub = .unknown) : mcAuthXor p q base s = .next (setFifoIn rest s) := by
  simp [mcAuthXor, ps1TypeGuard_of_ps2, hg, popIn_cons s sub rest _ hf, hc]

/-- The long shape, with a payload of 8 bytes to pop (R227). -/
theorem mcAuthLongXor_of_le (h : 8 ≤ rest.length) :
    mcAuthLongXor p q (setFifoIn rest s) =
      .next
        (pushOut ([0x00, 0x2B] ++ List.replicate 8 0x00 ++ [xorOf (rest.take 8), (slotRec p q s).term])
          (setFifoIn (rest.drop 8) s)) := by
  rw [mcAuthLongXor, popInN_of_le _ _ _ h]
  rfl

/-- The long shape, with fewer bytes than it pops (R7). -/
theorem mcAuthLongXor_of_lt (h : rest.length < 8) :
    mcAuthLongXor p q (setFifoIn rest s) = .refused .frameTooShort :=
  popInN_of_lt _ _ _ h

end Shapes

end Sys2Proof.Machine

namespace Sys2Proof.Proofs

open Machine

/-- Settles O49: one case of AuthXor for each class of sub-modes, the long shape by whether its payload is there. -/
theorem authXorShapes : Obligations.AuthXorShapes := by
  intro i sub rest s hi hr ha hg
  have hexec := exec_memcard s i 0xF0 (sub :: rest) hi hr ha
  rw [mcCommand_authXor] at hexec
  have hcard := isPSX_memcardStart s (sub :: rest) hg
  have hfifo := memcardStart_fifoIn s (sub :: rest)
  refine ⟨fun hsub => ?short, fun hsub => ?longNoXor, fun hsub hlen => ?longXor, fun hsub hlen => ?tooShort,
    fun hsub => ?unknown⟩
  case short =>
    rw [hexec, mcAuthXor_of_short _ hcard hfifo (authClassOf_of_short sub hsub), andThen_next, endReply_done]
  case longNoXor =>
    rw [hexec, mcAuthXor_of_longNoXor _ hcard hfifo (authClassOf_of_longNoXor sub hsub), andThen_next, endReply_done]
  case longXor =>
    rw [hexec, mcAuthXor_of_longXor _ hcard hfifo (authClassOf_of_longXor sub hsub), mcAuthLongXor_of_le hlen,
      andThen_next, memcardStart_done]
    rfl
  case tooShort =>
    rw [hexec, mcAuthXor_of_longXor _ hcard hfifo (authClassOf_of_longXor sub hsub), mcAuthLongXor_of_lt hlen]
    rfl
  case unknown =>
    have hdone := memcardStart_done s (sub :: rest) [] rest
    rw [pushOut_nil, List.append_nil] at hdone
    rw [hexec, mcAuthXor_of_unknown _ hcard hfifo (authClassOf_of_gt sub hsub), andThen_next, hdone]
    rfl

end Sys2Proof.Proofs
end

section
/-! WriteData and ReadData: the commands on a PS2-type card, the ends of their frames, and obligations O54 and O55. -/

namespace Sys2Proof.Machine

/-! ### The commands on a PS2-type card -/

section Commands

variable {s : State} {p : Port} {q : Slot} {len : Byte} {rest : List Byte} (base : Nat)

/-- WriteData with fewer bytes than its length (R7). -/
theorem mcWriteData_of_lt (hg : (cardInput p q s).isPSX = false) (hf : s.blk.fifoIn = len :: rest)
    (h : rest.length < len.toNat) : mcWriteData p q base s = .refused .frameTooShort := by
  rw [mcWriteData, ps1TypeGuard_of_ps2 _ _ _ _ _ hg, popIn_cons s len rest _ hf]
  exact popInN_of_lt _ _ _ h

/-- WriteData with its bytes: the save call, the reply, the advance (R218). -/
theorem mcWriteData_of_le (hg : (cardInput p q s).isPSX = false) (hf : s.blk.fifoIn = len :: rest)
    (h : len.toNat ≤ rest.length) :
    mcWriteData p q base s =
      .next
        (advanceTransfer p q len.toNat
          (pushOut
            ([0x00, 0x2B] ++ List.replicate len.toNat 0x00
              ++ [if s.params.writeDataTrailer = .checksum then xorOf (rest.take len.toNat) else 0x2B,
                (slotRec p q s).term])
            (cardSave p q (slotRec p q s).transferAddr (rest.take len.toNat)
              (setFifoIn (rest.drop len.toNat) s)))) := by
  rw [mcWriteData, ps1TypeGuard_of_ps2 _ _ _ _ _ hg, popIn_cons s len rest _ hf, popInN_of_le _ _ _ h]
  simp only [writeTrailer_eq]
  rfl

/-- ReadData: the read call, the reply with the bytes read, the advance (R220). -/
theorem mcReadData_of_ps2 (hg : (cardInput p q s).isPSX = false) (hf : s.blk.fifoIn = len :: rest) :
    mcReadData p q base s =
      .next
        (advanceTransfer p q len.toNat
          (pushOut
            ([0x00, 0x2B] ++ cardReadBytes p q (slotRec p q s).transferAddr len.toNat s
              ++ [xorOf (cardReadBytes p q (slotRec p q s).transferAddr len.toNat s), (slotRec p q s).term])
            (cardReadCall p q (slotRec p q s).transferAddr len.toNat (setFifoIn rest s)))) := by
  rw [mcReadData, ps1TypeGuard_of_ps2 _ _ _ _ _ hg, popIn_cons s len rest _ hf]
  rfl

end Commands

/-! ### The ends of their frames -/

section Ends

variable (s : State) (rest : List Byte)

/-- The addressed slot's record after a transfer of n bytes (R49). -/
def advanced (n : Nat) : SlotRecord :=
  { nextSlot s with transferAddr := (nextSlot s).transferAddr + BitVec.ofNat 32 n }

/-- A reply queued and transferAddr advanced, in the state of the start. -/
theorem advanceTransfer_done (n : Nat) (reply leftover : List Byte) :
    sio2DmaPad
        (advanceTransfer (nextPort s) s.blk.sio2.slot n
          (pushOut reply (setFifoIn leftover (memcardStart s rest)))) =
      frameDoneSlot s (advanced s n) (preamble s ++ reply) leftover :=
  memcardStart_doneSlot s rest (advanced s n) reply leftover

/-- A save, a reply queued and transferAddr advanced: the save's event, and card memories that `Saved` describes. -/
theorem advanceTransfer_cardSave_done (p : Port) (q : Slot) (addr : Word) (bytes : List Byte) (n : Nat)
    (reply leftover : List Byte) (hwf : State.wf s = true) (hn : bytes.length ≤ 2 ^ 32) :
    ∃ cards,
      sio2DmaPad
          (advanceTransfer (nextPort s) s.blk.sio2.slot n
            (pushOut reply (cardSave p q addr bytes (setFifoIn leftover (memcardStart s rest))))) =
        emit (.cardSave p q addr bytes)
          (setCards cards (frameDoneSlot s (advanced s n) (preamble s ++ reply) leftover))
      ∧ ∀ t : State, t.cards = cards → Saved p q addr bytes s t := by
  obtain ⟨-, -, hcards, -⟩ := (State.wf_iff s).mp hwf
  obtain ⟨cards, hsave⟩ := cardSave_frame (setFifoIn leftover (memcardStart s rest)) p q addr bytes
  have hsaved := cardSave_saved (setFifoIn leftover (memcardStart s rest)) p q addr bytes hcards hn
  rw [hsave] at hsaved ⊢
  refine ⟨cards, ?_, fun t ht => hsaved.congr rfl rfl ht⟩
  rw [← advanceTransfer_done s rest, ← sio2DmaPad_setCards, ← sio2DmaPad_emit]
  rfl

/-- The advance after a read call. -/
theorem advanceTransfer_cardRead_done (p : Port) (q : Slot) (addr : Word) (n : Nat) (reply leftover : List Byte) :
    sio2DmaPad
        (advanceTransfer (nextPort s) s.blk.sio2.slot n
          (pushOut reply (cardReadCall p q addr n (setFifoIn leftover (memcardStart s rest))))) =
      cardReadCall p q addr n (frameDoneSlot s (advanced s n) (preamble s ++ reply) leftover) := by
  rw [← advanceTransfer_done s rest, cardReadCall, cardReadCall, ← sio2DmaPad_emit, ← sio2DmaPad_drawFree]
  rfl

end Ends

end Sys2Proof.Machine

namespace Sys2Proof.Proofs

open Machine

/-- Settles O54: the guard's reply, the refusal, and the save with its reply and advance. -/
theorem writeData : Obligations.WriteData := by
  intro len rest s hwf hr ha p q addr n
  have hexec := exec_memcard s (.mcWriteData len rest) 0x42 (len :: rest) rfl hr ha
  rw [mcCommand_writeData] at hexec
  have hfifo := memcardStart_fifoIn s (len :: rest)
  refine ⟨fun hg => ?ps1, fun hg hlen => ?tooShort, fun hg hlen => ?saved⟩
  case ps1 => rw [hexec, mcWriteData, ps1TypeGuard_of_ps1 _ _ _ hg]
  case tooShort =>
    have hcard := isPSX_memcardStart s (len :: rest) hg
    rw [hexec, mcWriteData_of_lt _ hcard hfifo hlen]
    rfl
  case saved =>
    have hcard := isPSX_memcardStart s (len :: rest) hg
    have hsmall : (rest.take n).length ≤ 2 ^ 32 := by
      have := len.isLt
      simp only [List.length_take, n]
      omega
    obtain ⟨cards, hdone, hsaved⟩ :=
      advanceTransfer_cardSave_done s (len :: rest) p q addr (rest.take n) n
        ([0x00, 0x2B] ++ List.replicate n 0x00
          ++ [if s.params.writeDataTrailer = .checksum then xorOf (rest.take n) else 0x2B, (nextSlot s).term])
        (rest.drop n) hwf hsmall
    rw [mcWriteData_of_le _ hcard hfifo hlen, andThen_next] at hexec
    exact ⟨_, hexec.trans (congrArg Host.Outcome.next hdone), hsaved _ rfl, rfl⟩

/-- Settles O55: the guard's reply, and the read with its bytes and advance. -/
theorem readData : Obligations.ReadData := by
  intro len rest s hr ha p q addr n
  have hexec := exec_memcard s (.mcReadData len rest) 0x43 (len :: rest) rfl hr ha
  rw [mcCommand_readData] at hexec
  have hfifo := memcardStart_fifoIn s (len :: rest)
  refine ⟨fun hg => ?ps1, fun hg => ?read⟩
  case ps1 => rw [hexec, mcReadData, ps1TypeGuard_of_ps1 _ _ _ hg]
  case read =>
    have hcard := isPSX_memcardStart s (len :: rest) hg
    refine ⟨cardReadBytes p q addr n s, length_cardReadBytes _ _ _ _ _, cardReadBytes_of_refused s p q addr n,
      fun h k b => getElem?_cardReadBytes_of_saved s p q addr n k b h, ?_⟩
    rw [hexec, mcReadData_of_ps2 _ hcard hfifo, andThen_next]
    exact congrArg Host.Outcome.next (advanceTransfer_cardRead_done s (len :: rest) p q addr n _ rest)

end Sys2Proof.Proofs
end

section
/-! What an instruction can do, said once: `HostRel` for a host register operation or a control input, `Executes` for any
instruction. A claim about every instruction goes through these and does not split over them again. -/

namespace Sys2Proof.Machine

/-! ### STAT -/

/-- Of the bits of STAT only TX_READY, RX_FIFO_NOT_EMPTY, TX_EMPTY and ACK may newly be set, the ones a rule sets (R90,
R241). -/
def SetsTxBitsOnly (old new : Word) : Prop :=
  ∀ k, k ≠ 0 → k ≠ 1 → k ≠ 2 → k ≠ 7 → old.getLsbD k = false → new.getLsbD k = false

section Stat

variable {x y z : Word}

theorem SetsTxBitsOnly.refl (x : Word) : SetsTxBitsOnly x x := fun _ _ _ _ _ => id

theorem SetsTxBitsOnly.trans (h : SetsTxBitsOnly x y) (g : SetsTxBitsOnly y z) : SetsTxBitsOnly x z :=
  fun k h0 h1 h2 h7 => g k h0 h1 h2 h7 ∘ h k h0 h1 h2 h7

theorem SetsTxBitsOnly.zero (x : Word) : SetsTxBitsOnly x 0 := fun _ _ _ _ _ _ => BitVec.getLsbD_zero

theorem SetsTxBitsOnly.clearBits (x mask : Word) : SetsTxBitsOnly x (clearBits x mask) := by
  intro k _ _ _ _ hk
  rw [Machine.clearBits, BitVec.getLsbD_and, hk, Bool.false_and]

theorem SetsTxBitsOnly.setAck (h : y = x ∨ y = x ||| config.statAck) : SetsTxBitsOnly x y := by
  intro k _ _ _ h7 hk
  rcases h with rfl | rfl
  · exact hk
  · rw [BitVec.getLsbD_or, hk, getLsbD_statAck k h7, Bool.or_false]

/-- The reserved bits, one by one (R11). -/
theorem reservedClear_iff :
    x &&& ~~~Codes.statNamed = 0 ↔ ∀ k, Codes.statNamed.getLsbD k = false → x.getLsbD k = false := by
  constructor
  · intro h k hk
    by_cases hlt : k < 32
    · have hbit : (x &&& ~~~Codes.statNamed).getLsbD k = false := h ▸ BitVec.getLsbD_zero
      rwa [BitVec.getLsbD_and, BitVec.getLsbD_not, hk, decide_eq_true hlt, Bool.not_false, Bool.and_self,
        Bool.and_true] at hbit
    · exact BitVec.getLsbD_of_ge x k (Nat.not_lt.mp hlt)
  · intro h
    apply BitVec.eq_of_getLsbD_eq
    intro k hk
    rw [BitVec.getLsbD_and, BitVec.getLsbD_not]
    cases hn : Codes.statNamed.getLsbD k with
    | false => simp [h k hn]
    | true => simp

/-- The four bits that may be set are named ones. -/
theorem SetsTxBitsOnly.reservedClear (h : SetsTxBitsOnly x y) (hx : x &&& ~~~Codes.statNamed = 0) :
    y &&& ~~~Codes.statNamed = 0 := by
  rw [reservedClear_iff] at hx ⊢
  intro k hk
  have hne : ∀ j, Codes.statNamed.getLsbD j = true → k ≠ j := by
    rintro _ hj rfl
    exact Bool.false_ne_true (hk.symm.trans hj)
  exact h k (hne 0 (by decide)) (hne 1 (by decide)) (hne 2 (by decide)) (hne 7 (by decide)) (hx k hk)

end Stat

/-! ### What every instruction but hard reset and checkpoint load can do -/

/-- What every instruction but hard reset and checkpoint load does: what it leaves unchanged (R16, R28), the values it can
write (R11, R12, R16), and the parts of the two invariants it keeps. -/
structure OpRel (s t : State) : Prop where
  params : t.params = s.params
  pending : t.pending = s.pending
  inputsCard : t.inputs.card = s.inputs.card
  inputsTap : t.inputs.multitapEnabled = s.inputs.multitapEnabled
  stat : SetsTxBitsOnly s.blk.sio0.stat t.blk.sio0.stat
  ctrlAck : s.blk.sio0.ctrl.getLsbD 4 = false → t.blk.sio0.ctrl.getLsbD 4 = false
  ctrlReset : s.blk.sio0.ctrl.getLsbD 6 = false → t.blk.sio0.ctrl.getLsbD 6 = false
  coherent : Block.sio0Coherent s.blk = true → Block.sio0Coherent t.blk = true
  recv1 : t.blk.sio2.recv1 = s.blk.sio2.recv1 ∨ t.blk.sio2.recv1 = config.recv1Connected
    ∨ t.blk.sio2.recv1 = config.recv1Disconnected
  recv2 : t.blk.sio2.recv2 = s.blk.sio2.recv2
  recv3 : t.blk.sio2.recv3 = s.blk.sio2.recv3
  length : s.blk.sio2.commandLength ≤ 511 → t.blk.sio2.commandLength ≤ 511
  cursorSound : Block.cursorSound s.blk = true → Block.cursorSound t.blk = true
  cursor : 2 ≤ s.blk.ps1.cursor → 2 ≤ t.blk.ps1.cursor
  cardsWf : State.cardsWf s → State.cardsWf t

section Rel

variable {s t u : State}

theorem OpRel.trans (h : OpRel s t) (g : OpRel t u) : OpRel s u where
  params := g.params.trans h.params
  pending := g.pending.trans h.pending
  inputsCard := g.inputsCard.trans h.inputsCard
  inputsTap := g.inputsTap.trans h.inputsTap
  stat := h.stat.trans g.stat
  ctrlAck := g.ctrlAck ∘ h.ctrlAck
  ctrlReset := g.ctrlReset ∘ h.ctrlReset
  coherent := g.coherent ∘ h.coherent
  recv1 := by
    rcases g.recv1 with hsame | hset
    · rw [hsame]
      exact h.recv1
    · exact .inr hset
  recv2 := g.recv2.trans h.recv2
  recv3 := g.recv3.trans h.recv3
  length := g.length ∘ h.length
  cursorSound := g.cursorSound ∘ h.cursorSound
  cursor := g.cursor ∘ h.cursor
  cardsWf := g.cardsWf ∘ h.cardsWf

theorem DataRel.opRel (h : DataRel s t) : OpRel s t where
  params := h.params
  pending := h.pending
  inputsCard := h.inputsCard
  inputsTap := h.inputsTap
  stat := .setAck h.stat
  ctrlAck := by rw [h.sio0]; exact id
  ctrlReset := by rw [h.sio0]; exact id
  coherent := by
    simp only [Block.sio0Coherent]
    rw [h.sio0]
    exact id
  recv1 := h.recv1
  recv2 := by rw [h.sio2]
  recv3 := by rw [h.sio2]
  length := h.length
  cursorSound := h.cursorSound
  cursor := h.cursor
  cardsWf := h.cards

theorem OpRel.refl (s : State) : OpRel s s := (DataRel.refl s).opRel

theorem TxRel.opRel {n : Nat} (h : TxRel n s t) : OpRel s t where
  params := h.params
  pending := h.pending
  inputsCard := h.inputsCard
  inputsTap := h.inputsTap
  stat k h0 h1 h2 h7 hk := (h.stat k h0 h1 h2 h7).trans hk
  ctrlAck := by rw [h.ctrl]; exact id
  ctrlReset := by rw [h.ctrl]; exact id
  coherent := h.coherent
  recv1 := .inl (by rw [h.sio2])
  recv2 := by rw [h.sio2]
  recv3 := by rw [h.sio2]
  length := by rw [h.sio2]; exact id
  cursorSound := by
    simp only [Block.cursorSound, Block.positionInRange]
    rw [h.sio2]
    exact id
  cursor := h.cursor
  cardsWf := h.cards

/-- The first invariant is kept (R11, R17, R40, R272). -/
theorem OpRel.keeps_wf (h : OpRel s t) (hs : State.wf s = true) : State.wf t = true := by
  obtain ⟨hstat, hlength, hcards, hticks⟩ := (State.wf_iff s).mp hs
  exact (State.wf_iff t).mpr
    ⟨h.stat.reservedClear hstat, h.length hlength, h.cardsWf hcards, by rwa [h.params]⟩

theorem Block.sio0BitsClear_iff (b : Block) :
    Block.sio0BitsClear b = true ↔
      b.sio0.stat.getLsbD 3 = false ∧ b.sio0.stat.getLsbD 9 = false ∧ b.sio0.ctrl.getLsbD 4 = false
        ∧ b.sio0.ctrl.getLsbD 6 = false := by
  simp [Block.sio0BitsClear, and_assoc]

theorem Block.recvSound_iff (b : Block) :
    Block.recvSound b = true ↔
      (b.sio2.recv1 = config.recv1Connected ∨ b.sio2.recv1 = config.recv1Disconnected) ∧ b.sio2.recv2 = 0x0000000F
        ∧ b.sio2.recv3 = 0 := by
  simp [Block.recvSound, and_assoc]

theorem OpRel.sio0BitsClear (h : OpRel s t) (hs : Block.sio0BitsClear s.blk = true) :
    Block.sio0BitsClear t.blk = true := by
  obtain ⟨hparity, hirq, hack, hreset⟩ := (Block.sio0BitsClear_iff _).mp hs
  exact (Block.sio0BitsClear_iff _).mpr
    ⟨h.stat 3 (by decide) (by decide) (by decide) (by decide) hparity,
      h.stat 9 (by decide) (by decide) (by decide) (by decide) hirq, h.ctrlAck hack, h.ctrlReset hreset⟩

theorem OpRel.recvSound (h : OpRel s t) (hs : Block.recvSound s.blk = true) : Block.recvSound t.blk = true := by
  obtain ⟨h1, h2, h3⟩ := (Block.recvSound_iff _).mp hs
  refine (Block.recvSound_iff _).mpr ⟨?_, h.recv2.trans h2, h.recv3.trans h3⟩
  rcases h.recv1 with hsame | hset
  · rwa [hsame]
  · exact hset

/-- The second invariant is kept (R11, R12, R14, R16, R18, R24, R130). -/
theorem OpRel.keeps_sound (h : OpRel s t) (hs : State.sound s = true) : State.sound t = true := by
  obtain ⟨hcoherent, hbits, hrecv, hentry, hcursor⟩ := (State.sound_iff s).mp hs
  exact (State.sound_iff t).mpr
    ⟨h.coherent hcoherent, h.sio0BitsClear hbits, h.recvSound hrecv, h.cursorSound hentry, h.cursor hcursor⟩

/-! ### Host register operations and control inputs -/

/-- What a register access or a control input does that is no write of DATA_IN or TX_DATA, no hard reset and no checkpoint
load: it leaves card memory and SIO2.slot as well (R17, R42). -/
structure HostRel (s t : State) : Prop extends OpRel s t where
  cards : t.cards = s.cards
  slot : t.blk.sio2.slot = s.blk.sio2.slot

/-- The result is `HostRel`'s next state. -/
def Hosts (s : State) : Result → Prop
  | .next t => HostRel s t
  | _ => False

theorem HostRel.refl (s : State) : HostRel s s := ⟨.refl s, rfl, rfl⟩

theorem HostRel.trans (h : HostRel s t) (g : HostRel t u) : HostRel s u :=
  ⟨h.toOpRel.trans g.toOpRel, g.cards.trans h.cards, g.slot.trans h.slot⟩

/-- An update of queues, slot records and events alone. -/
theorem HostRel.of_eq (h0 : t.blk.sio0 = s.blk.sio0) (h2 : t.blk.sio2 = s.blk.sio2) (h1 : t.blk.ps1 = s.blk.ps1)
    (hp : t.params = s.params) (hq : t.pending = s.pending) (hi : t.inputs = s.inputs) (hc : t.cards = s.cards) :
    HostRel s t where
  params := hp
  pending := hq
  inputsCard := by rw [hi]
  inputsTap := by rw [hi]
  stat := by rw [h0]; exact .refl _
  ctrlAck := by rw [h0]; exact id
  ctrlReset := by rw [h0]; exact id
  coherent := by simp only [Block.sio0Coherent, h0]; exact id
  recv1 := .inl (by rw [h2])
  recv2 := by rw [h2]
  recv3 := by rw [h2]
  length := by rw [h2]; exact id
  cursorSound := by simp only [Block.cursorSound, Block.positionInRange, h2]; exact id
  cursor := by rw [h1]; exact id
  cardsWf := by simp only [State.cardsWf, cardMem, hc]; exact id
  cards := hc
  slot := by rw [h2]

theorem HostRel.emit (e : Event) : HostRel s (emit e s) := .of_eq rfl rfl rfl rfl rfl rfl rfl

theorem HostRel.setFifoOut (l : List Byte) : HostRel s (setFifoOut l s) := .of_eq rfl rfl rfl rfl rfl rfl rfl

theorem HostRel.setTicks (p : Port) (q : Slot) (n : Nat) : HostRel s (setTicks p q n s) :=
  .of_eq rfl rfl rfl rfl rfl rfl rfl

theorem HostRel.setAllTicks (n : Nat) : HostRel s (setAllTicks n s) := by
  rw [setAllTicks_eq]
  generalize (Machine.setAllTicks n s).blk.mcd = mcd
  exact .of_eq rfl rfl rfl rfl rfl rfl rfl

/-- SIO0 replaced by a group with its stage, mode and command. -/
theorem HostRel.setSio0 (r : Sio0) (hs : SetsTxBitsOnly s.blk.sio0.stat r.stat)
    (ha : s.blk.sio0.ctrl.getLsbD 4 = false → r.ctrl.getLsbD 4 = false)
    (hr : s.blk.sio0.ctrl.getLsbD 6 = false → r.ctrl.getLsbD 6 = false)
    (hc : Block.sio0Coherent s.blk = true → Block.sio0Coherent { s.blk with sio0 := r } = true) :
    HostRel s (setSio0 r s) :=
  { HostRel.refl s with stat := hs, ctrlAck := ha, ctrlReset := hr, coherent := hc }

/-- SIO2 replaced by a group that differs in CTRL, the SEND banks and the DMA block alone. -/
theorem HostRel.setSio2 (r : Sio2)
    (h : r = { s.blk.sio2 with
      ctrl := r.ctrl, send1 := r.send1, send2 := r.send2, send3 := r.send3, dmaBlockSize := r.dmaBlockSize }) :
    HostRel s (setSio2 r s) := by
  rw [h]
  exact { HostRel.refl s with }

theorem HostRel.sio2SoftReset : HostRel s (sio2SoftReset s) :=
  { HostRel.refl s with length := fun _ => Nat.zero_le _, cursorSound := fun _ => rfl }

theorem HostRel.sio0SoftReset : HostRel s (sio0SoftReset s) :=
  { HostRel.refl s with coherent := fun _ => rfl, cursor := fun _ => Nat.le_refl 2 }

theorem HostRel.clearStat (mask : Word) : HostRel s (setStat (clearBits s.blk.sio0.stat mask) s) :=
  .setSio0 _ (.clearBits _ _) id id id

/-! ### The write of CTRL (R94) -/

/-- What CTRL is left with after a write of `v`. -/
def ctrlLeft (v : Half) : Half :=
  if v.getLsbD config.ctrlReset then 0 else if v.getLsbD config.ctrlAck then v &&& Codes.ctrlWithoutAck else v

/-- ACK never reads back as 1 (R12). -/
theorem ctrlLeft_ack (v : Half) : (ctrlLeft v).getLsbD 4 = false := by
  unfold ctrlLeft
  split
  · rfl
  · split
    · simp [Codes.ctrlWithoutAck]
    · next h => exact Bool.eq_false_iff.mpr h

/-- RESET never reads back as 1 (R12). -/
theorem ctrlLeft_reset (v : Half) : (ctrlLeft v).getLsbD 6 = false := by
  unfold ctrlLeft
  split
  · rfl
  · next h =>
    have h6 : v.getLsbD 6 = false := Bool.eq_false_iff.mpr h
    split
    · rw [BitVec.getLsbD_and, h6, Bool.false_and]
    · exact h6

/-- The arms leave CTRL as a value of `v` alone, and do the rest whatever CTRL was before. -/
theorem ctrlArms_store (v : Half) (s : State) :
    ctrlResetArm v (ctrlAckArm v (ctrlZeroArm v (setSio0 { s.blk.sio0 with ctrl := v } s))) =
      setSio0 { (ctrlResetArm v (ctrlAckArm v (ctrlZeroArm v s))).blk.sio0 with ctrl := ctrlLeft v }
        (ctrlResetArm v (ctrlAckArm v (ctrlZeroArm v s))) := by
  unfold ctrlResetArm ctrlAckArm ctrlZeroArm ctrlLeft
  split_ifs <;> rfl

theorem HostRel.ctrlZeroArm (v : Half) : HostRel s (ctrlZeroArm v s) := by
  unfold Machine.ctrlZeroArm
  split
  · exact .sio0SoftReset
  · exact .refl s

theorem HostRel.ctrlAckArm (v : Half) : HostRel s (ctrlAckArm v s) := by
  unfold Machine.ctrlAckArm
  split
  · exact .setSio0 _ (.clearBits _ _) (fun h => by rw [BitVec.getLsbD_and, h, Bool.false_and])
      (fun h => by rw [BitVec.getLsbD_and, h, Bool.false_and]) id
  · exact .refl s

theorem HostRel.ctrlResetArm (v : Half) : HostRel s (ctrlResetArm v s) := by
  unfold Machine.ctrlResetArm
  split
  · refine .trans ?_ .sio0SoftReset
    exact .setSio0 _ (.zero _) (fun _ => BitVec.getLsbD_zero) (fun _ => BitVec.getLsbD_zero) id
  · exact .refl s

theorem Hosts.wr16Sio0Ctrl (v : Half) : Hosts s (execWr16Sio0Ctrl v s) := by
  unfold execWr16Sio0Ctrl
  rw [ctrlArms_store]
  exact HostRel.trans (.trans (.ctrlZeroArm v) (.trans (.ctrlAckArm v) (.ctrlResetArm v)))
    (.setSio0 _ (.refl _) (fun _ => ctrlLeft_ack v) (fun _ => ctrlLeft_reset v) id)

/-! ### Every other operation of the host -/

theorem Hosts.wr32Sio2Send3 (k : Fin 16) (w : Word) : Hosts s (execWr32Sio2Send3 k w s) := by
  unfold execWr32Sio2Send3
  dsimp only
  split
  · exact HostRel.trans (.setSio2 _ rfl) .sio2SoftReset
  · exact HostRel.setSio2 _ rfl

theorem Hosts.rd8Sio2DataOut : Hosts s (execRd8Sio2DataOut s) := by
  unfold execRd8Sio2DataOut
  split
  · exact HostRel.emit _
  · exact HostRel.trans (.setFifoOut _) (.emit _)

theorem Hosts.wr32Sio2Ctrl (v : Word) : Hosts s (execWr32Sio2Ctrl v s) := by
  unfold execWr32Sio2Ctrl
  dsimp only
  split
  · exact HostRel.trans (.setSio2 _ rfl) (.emit _)
  · exact HostRel.setSio2 _ rfl

/-- The instruction writes SIO2 DATA_IN, once or a frame. -/
def WritesDataIn (i : Instr) : Prop := (∃ b, i = .wr8Sio2DataIn b) ∨ ∃ bytes, encode i = .frame bytes

/-- The instruction writes SIO0 TX_DATA, once or a transaction. -/
def WritesTxData (i : Instr) : Prop := (∃ b, i = .wr8Sio0TxData b) ∨ ∃ bytes, encode i = .transaction bytes

theorem not_writesDataIn {i : Instr} (hf : ∀ bytes, encode i ≠ .frame bytes) (hw : ∀ b, i ≠ .wr8Sio2DataIn b) :
    ¬ WritesDataIn i
  | .inl ⟨b, hi⟩ => hw b hi
  | .inr ⟨bytes, hi⟩ => hf bytes hi

theorem not_writesTxData {i : Instr} (ht : ∀ bytes, encode i ≠ .transaction bytes) (hw : ∀ b, i ≠ .wr8Sio0TxData b) :
    ¬ WritesTxData i
  | .inl ⟨b, hi⟩ => hw b hi
  | .inr ⟨bytes, hi⟩ => ht bytes hi

/-- Every other instruction but hard reset and checkpoint load answers, and does what `HostRel` says. -/
theorem Hosts.exec (i : Instr) (s : State) (hd : ¬ WritesDataIn i) (hx : ¬ WritesTxData i) (hr : i ≠ .pinHardReset)
    (hc : ∀ image, i ≠ .pinCheckpointLoad image) : Hosts s (exec i s) := by
  cases i with
  | rd8Sio0RxData => exact HostRel.trans (.clearStat _) (.emit _)
  | rd32Sio0Stat => exact HostRel.trans (.clearStat _) (.emit _)
  | wr32Sio0Stat v => exact HostRel.refl s
  | wr16Sio0Ctrl v => exact .wr16Sio0Ctrl v
  | rd16Sio0Ctrl => exact HostRel.emit _
  | wr16Sio0Mode v => exact HostRel.setSio0 _ (.refl _) id id id
  | rd16Sio0Mode => exact HostRel.emit _
  | wr32Sio2Send3 k w => exact .wr32Sio2Send3 k w
  | rd32Sio2Send3 k => exact HostRel.emit _
  | wr32Sio2Send1 k w => exact HostRel.setSio2 _ rfl
  | rd32Sio2Send1 k => exact HostRel.emit _
  | wr32Sio2Send2 k w => exact HostRel.setSio2 _ rfl
  | rd32Sio2Send2 k => exact HostRel.emit _
  | rd8Sio2DataOut => exact .rd8Sio2DataOut
  | wr32Sio2Ctrl v => exact .wr32Sio2Ctrl v
  | rd32Sio2Ctrl => exact HostRel.emit _
  | rd32Sio2Recv1 => exact HostRel.emit _
  | wr32Sio2Recv1 v => exact HostRel.refl s
  | rd32Sio2Recv2 => exact HostRel.emit _
  | wr32Sio2Recv2 v => exact HostRel.refl s
  | rd32Sio2Recv3 => exact HostRel.emit _
  | wr32Sio2Recv3 v => exact HostRel.refl s
  | pinDmaSetBlock size => exact HostRel.setSio2 _ rfl
  | pinAeSet p q => exact HostRel.setTicks p q _
  | pinAeClear p q => exact HostRel.setTicks p q 0
  | pinAeSetall => exact HostRel.setAllTicks _
  | pinAeClearall => exact HostRel.setAllTicks 0
  | pinHardReset => exact absurd rfl hr
  | pinCheckpointLoad image => exact absurd rfl (hc image)
  | wr8Sio2DataIn b => exact absurd (.inl ⟨b, rfl⟩) hd
  | wr8Sio0TxData b => exact absurd (.inl ⟨b, rfl⟩) hx
  | s0Pad _ _ => exact absurd (.inr ⟨_, rfl⟩) hx
  | s0PadUnknown _ => exact absurd (.inr ⟨_, rfl⟩) hx
  | s0Ps1Read _ => exact absurd (.inr ⟨_, rfl⟩) hx
  | s0Ps1State _ => exact absurd (.inr ⟨_, rfl⟩) hx
  | s0Ps1Write _ => exact absurd (.inr ⟨_, rfl⟩) hx
  | s0Ps1Pocketstation => exact absurd (.inr ⟨_, rfl⟩) hx
  | s0MemcardUnknown _ => exact absurd (.inr ⟨_, rfl⟩) hx
  | s0UnknownMode _ => exact absurd (.inr ⟨_, rfl⟩) hx
  | _ => exact absurd (.inr ⟨_, rfl⟩) hd

/-! ### Any instruction -/

/-- The ways an instruction leads to its next state. -/
inductive Executes (i : Instr) (s t : State) : Prop where
  | hardReset (hi : i = .pinHardReset) (ht : t = { s with blk := Block.reset })
  | checkpointLoad (image : Image) (mcd : SlotTable SlotRecord) (hi : i = .pinCheckpointLoad image)
      (ht : t = { s with blk := { image.state with mcd := mcd } })
  | dataIn (hi : WritesDataIn i) (h : DataRel s t)
  | txData (hi : WritesTxData i) (n : Nat) (h : TxRel n s t)
  | host (h : HostRel s t)

/-- A checkpoint load installs the image, with slot records of its own where it arms them (R277). -/
theorem execPinCheckpointLoad_eq (image : Image) (s : State) :
    ∃ mcd, execPinCheckpointLoad image s = .next { s with blk := { image.state with mcd := mcd } } := by
  unfold execPinCheckpointLoad
  dsimp only
  split
  · obtain ⟨mcd, h⟩ := setAllTicks_frame { s with blk := image.state } s.params.autoEjectTicks
    exact ⟨mcd, congrArg _ h⟩
  · exact ⟨image.state.mcd, rfl⟩

theorem WritesDataIn.sends {i : Instr} (hi : WritesDataIn i) (s : State) : Sends s (exec i s) := by
  rcases hi with ⟨b, rfl⟩ | ⟨bytes, hb⟩
  · exact .sio2Write b s
  · rw [exec_frame i bytes s hb]
    exact .sendFrame bytes s

theorem WritesTxData.answers {i : Instr} (hi : WritesTxData i) (s : State) :
    ∃ n t, exec i s = .next t ∧ TxRel n s t := by
  rcases hi with ⟨b, rfl⟩ | ⟨bytes, hb⟩
  · exact ⟨_, txWrite_cases b s⟩
  · rw [exec_transaction i bytes s hb]
    exact ⟨_, sendTransaction_cases bytes s⟩

theorem exec_cases {i : Instr} (h : exec i s = .next t) : Executes i s t := by
  by_cases hd : WritesDataIn i
  · have hsends := hd.sends s
    rw [h] at hsends
    exact .dataIn hd hsends
  by_cases hx : WritesTxData i
  · obtain ⟨n, u, hu, hrel⟩ := hx.answers s
    cases hu.symm.trans h
    exact .txData hx n hrel
  by_cases hr : i = .pinHardReset
  · subst hr
    cases h
    exact .hardReset rfl rfl
  by_cases hc : ∃ image, i = .pinCheckpointLoad image
  · obtain ⟨image, rfl⟩ := hc
    obtain ⟨mcd, hload⟩ := execPinCheckpointLoad_eq image s
    cases hload.symm.trans h
    exact .checkpointLoad image mcd rfl rfl
  · have hhost := Hosts.exec i s hd hx hr fun image hi => hc ⟨image, hi⟩
    rw [h] at hhost
    exact .host hhost

end Rel
end Sys2Proof.Machine
end

section
/-! What a step keeps: the two invariants through the taking of an operation, hard reset and a checkpoint load, and
obligations O5, O8, O9, O10, O37 and O38. -/

namespace Sys2Proof

/-! ### Where a checkpoint load comes from: no other packet decodes to one, and its image is well-typed (R277) -/

section Decode

variable {image : Image}

theorem decodeRead_ne_checkpointLoad (a : Word) (width : Nat) :
    decodeRead a width ≠ .ok (.pinCheckpointLoad image) := by
  unfold decodeRead
  split
  · simp
  · next r _ => split <;> cases r <;> simp [readInstr]

theorem decodeWrite_ne_checkpointLoad (a : Word) (width : Nat) (value : Word) :
    decodeWrite a width value ≠ .ok (.pinCheckpointLoad image) := by
  unfold decodeWrite
  split
  · simp
  · next r _ => split_ifs <;> cases r <;> simp [writeInstr]

theorem decodeNoArgs_ne_checkpointLoad {i : Instr} (hi : i ≠ .pinCheckpointLoad image) (args : List Nat) :
    decodeNoArgs i args ≠ .ok (.pinCheckpointLoad image) := by
  cases args <;> simp [decodeNoArgs, hi]

theorem decodeSlot_ne_checkpointLoad {mk : Port → Slot → Instr} (hi : ∀ p q, mk p q ≠ .pinCheckpointLoad image)
    (args : List Nat) : decodeSlot mk args ≠ .ok (.pinCheckpointLoad image) := by
  unfold decodeSlot
  split
  · split <;> simp [hi]
  · simp

theorem decodePin_ne_checkpointLoad (code : BitVec 4) (args : List Nat) :
    decodePin code args ≠ .ok (.pinCheckpointLoad image) := by
  unfold decodePin
  split_ifs
  · exact decodeNoArgs_ne_checkpointLoad (by simp) args
  · split <;> simp
  · exact decodeSlot_ne_checkpointLoad (by simp) args
  · exact decodeSlot_ne_checkpointLoad (by simp) args
  · exact decodeNoArgs_ne_checkpointLoad (by simp) args
  · exact decodeNoArgs_ne_checkpointLoad (by simp) args
  · simp
  · simp

theorem authInstr_ne_checkpointLoad (sub : Byte) (rest : List Byte) :
    authInstr sub rest ≠ .pinCheckpointLoad image := by
  unfold authInstr
  split <;> simp

theorem decodeMemcard_ne_checkpointLoad (c : Byte) (bytes : List Byte) :
    decodeMemcard c bytes ≠ .ok (.pinCheckpointLoad image) := by
  unfold decodeMemcard
  split <;> simp [authInstr_ne_checkpointLoad]

theorem decodeMultitap_ne_checkpointLoad (c : Byte) (bytes : List Byte) :
    decodeMultitap c bytes ≠ .ok (.pinCheckpointLoad image) := by
  unfold decodeMultitap
  split <;> simp

theorem decodeFrame_ne_checkpointLoad (multitap : Bool) (bytes : List Byte) :
    decodeFrame multitap bytes ≠ .ok (.pinCheckpointLoad image) := by
  cases bytes with
  | nil => simp [decodeFrame]
  | cons m bytes =>
    simp only [decodeFrame]
    cases frameModeOf m with
    | pad => simp
    | multitap =>
      cases multitap <;> cases bytes <;> simp [decodeMultitap_ne_checkpointLoad]
    | infrared => cases bytes <;> simp
    | memcard => cases bytes <;> simp [decodeMemcard_ne_checkpointLoad]
    | unknown => simp

theorem endsHere_ne_checkpointLoad {i : Instr} (hi : i ≠ .pinCheckpointLoad image) (bytes : List Byte) :
    endsHere i bytes ≠ .ok (.pinCheckpointLoad image) := by
  cases bytes <;> simp [endsHere, hi]

theorem decodeTransaction_ne_checkpointLoad (bytes : List Byte) :
    decodeTransaction bytes ≠ .ok (.pinCheckpointLoad image) := by
  cases bytes with
  | nil => simp [decodeTransaction]
  | cons m bytes =>
    simp only [decodeTransaction]
    split_ifs
    · cases bytes with
      | nil => simp
      | cons c rest =>
        dsimp only
        split
        · simp
        · exact endsHere_ne_checkpointLoad (by simp) rest
    · cases bytes with
      | nil => simp
      | cons c rest => cases hc : ps1CommandOf c <;> simp [hc, endsHere_ne_checkpointLoad]
    · exact endsHere_ne_checkpointLoad (by simp) bytes

theorem decodeImage_wellTyped {code : BitVec 4} {args : List Nat} {x : Image}
    (h : decodeImage code args x = .ok (.pinCheckpointLoad image)) : image.state.wellTyped = true := by
  unfold decodeImage at h
  split at h
  · split at h
    · split at h
      · next hx =>
        cases h
        exact hx
      · cases h
    · cases h
  · cases h

/-- The image of a checkpoint load is a value of the types of its fields. -/
theorem wellTyped_of_decode {multitap : Bool} {p : Packet} (h : decode multitap p = .ok (.pinCheckpointLoad image)) :
    image.state.wellTyped = true := by
  cases p with
  | read a width => exact absurd h (decodeRead_ne_checkpointLoad a width)
  | write a width value => exact absurd h (decodeWrite_ne_checkpointLoad a width value)
  | frame bytes => exact absurd h (decodeFrame_ne_checkpointLoad multitap bytes)
  | transaction bytes => exact absurd h (decodeTransaction_ne_checkpointLoad bytes)
  | pin code args x =>
    cases x with
    | none => exact absurd h (decodePin_ne_checkpointLoad code args)
    | some x => exact decodeImage_wellTyped h

end Decode

namespace Machine

/-! ### Reset -/

theorem reset_wf : State.wf State.reset = true :=
  (State.wf_iff _).mpr ⟨rfl, Nat.zero_le _, reset_cardsWf, Nat.succ_pos _⟩

theorem reset_sound : State.sound State.reset = true := by decide

variable {s t : State} {i : Instr}

/-- Hard reset touches neither the cards nor the parameters (R310). -/
theorem wf_hardReset (hs : State.wf s = true) : State.wf { s with blk := Block.reset } = true := by
  obtain ⟨-, -, hcards, hticks⟩ := (State.wf_iff s).mp hs
  obtain ⟨hstat, hlength, -, -⟩ := (State.wf_iff _).mp reset_wf
  exact (State.wf_iff _).mpr ⟨hstat, hlength, hcards, hticks⟩

/-- A block of well-typed fields keeps the invariant, whatever its slot records (R277). -/
theorem wf_checkpointLoad {b : Block} (mcd : SlotTable SlotRecord) (hb : b.wellTyped = true) (hs : State.wf s = true) :
    State.wf { s with blk := { b with mcd := mcd } } = true := by
  obtain ⟨-, -, hcards, hticks⟩ := (State.wf_iff s).mp hs
  obtain ⟨hstat, -, hlength⟩ := (Block.wellTyped_iff b).mp hb
  exact (State.wf_iff _).mpr ⟨hstat, hlength, hcards, hticks⟩

/-! ### The taking of an operation -/

section TakeOp

variable (s) (op : HostOp) (rest : List HostOp)

theorem takeOp_blk : (takeOp op rest s).blk = s.blk := by
  rw [takeOp_eq]
  rfl

theorem takeOp_params : (takeOp op rest s).params = s.params := by
  rw [takeOp_eq]
  rfl

theorem takeOp_cardsWf (hs : State.cardsWf s) : State.cardsWf (takeOp op rest s) := by
  intro p q
  rw [cardMem_takeOp]
  split
  · rfl
  · exact hs p q

theorem takeOp_wf (hs : State.wf s = true) : State.wf (takeOp op rest s) = true := by
  obtain ⟨hstat, hlength, hcards, hticks⟩ := (State.wf_iff s).mp hs
  refine (State.wf_iff _).mpr ⟨?_, ?_, takeOp_cardsWf s op rest hcards, ?_⟩
  · rwa [takeOp_blk]
  · rwa [takeOp_blk]
  · rwa [takeOp_params]

theorem takeOp_sound (hs : State.sound s = true) : State.sound (takeOp op rest s) = true := by
  rw [State.sound, takeOp_blk]
  exact hs

end TakeOp

/-! ### Any instruction -/

theorem Executes.keeps_wf (h : Executes i s t)
    (hload : ∀ image, i = .pinCheckpointLoad image → image.state.wellTyped = true) (hs : State.wf s = true) :
    State.wf t = true := by
  cases h with
  | hardReset hi ht => exact ht ▸ wf_hardReset hs
  | checkpointLoad image mcd hi ht => exact ht ▸ wf_checkpointLoad mcd (hload image hi) hs
  | dataIn hi h => exact h.opRel.keeps_wf hs
  | txData hi n h => exact h.opRel.keeps_wf hs
  | host h => exact h.keeps_wf hs

theorem Executes.keeps_sound (h : Executes i s t) (hload : ∀ image, i ≠ .pinCheckpointLoad image)
    (hs : State.sound s = true) : State.sound t = true := by
  cases h with
  | hardReset hi ht => exact ht ▸ reset_sound
  | checkpointLoad image mcd hi ht => exact absurd hi (hload image)
  | dataIn hi h => exact h.opRel.keeps_sound hs
  | txData hi n h => exact h.opRel.keeps_sound hs
  | host h => exact h.keeps_sound hs

/-! ### SIO2.slot in a frame -/

theorem HandlerRel.slot (h : HandlerRel s t) : t.blk.sio2.slot = s.blk.sio2.slot := by rw [h.sio2]

/-- A whole frame that is no multitap frame leaves SIO2.slot. -/
theorem sendFrame_slot {m : Byte} {rest : List Byte} (hm : m ≠ 0x21) (hr : frameReady (rest.length + 1) s = true)
    (h : sendFrame (m :: rest) s = .next t) : t.blk.sio2.slot = s.blk.sio2.slot := by
  rw [sendFrame_whole m rest s hr] at h
  obtain ⟨u, hu, hpad⟩ := andThen_eq_next h
  obtain ⟨slot, hslot, hhandles⟩ := sio2Dispatch_cases m (replyBase s) (frameStart rest s)
  rw [hslot hm, withSlot_self, hu] at hhandles
  have hrel : HandlerRel (frameStart rest s) u := hhandles
  cases hpad
  calc (sio2DmaPad u).blk.sio2.slot
      = u.blk.sio2.slot := HandlerRel.sio2DmaPad.slot
    _ = (frameStart rest s).blk.sio2.slot := hrel.slot
    _ = s.blk.sio2.slot := decodedEntry_slot s.blk.sio2

end Machine

namespace Proofs

open Machine

/-- Settles O8: the values of R29 meet both invariants. -/
theorem resetMeetsInvariants : Obligations.ResetMeetsInvariants := ⟨reset_wf, reset_sound⟩

/-- Settles O5: without an operation, and with a packet the decoder refuses. -/
theorem stepWithoutInstruction : Obligations.StepWithoutInstruction := by
  intro s
  refine ⟨fun hidle => ?idle, fun op rest why hop hdecode => ?refused⟩
  case idle => simp only [step, hidle]
  case refused =>
    have hfetch : fetch op.packet (takeOp op rest s) = .error why := hdecode
    simp only [step, hop, hfetch]

/-- Settles O9: the taking of an operation keeps the invariant, and so does each way an instruction leads on; the image
of a checkpoint load is well-typed, having been decoded. -/
theorem stepKeepsWellFormed : Obligations.StepKeepsWellFormed := by
  intro s t hs hstep
  rcases step_cases hstep with ⟨-, rfl⟩ | ⟨op, rest, i, -, hfetch, hexec⟩
  · exact hs
  · refine (exec_cases hexec).keeps_wf ?_ (takeOp_wf s op rest hs)
    rintro image rfl
    exact wellTyped_of_decode hfetch

/-- Settles O10: the taking of an operation leaves the block, and no way but a checkpoint load leads out of the
invariant. -/
theorem stepKeepsSound : Obligations.StepKeepsSound := by
  intro s t hs hstep hload
  rcases step_cases hstep with ⟨-, rfl⟩ | ⟨op, rest, i, hop, hfetch, hexec⟩
  · exact hs
  · refine (exec_cases hexec).keeps_sound ?_ (takeOp_sound s op rest hs)
    rintro image rfl
    exact hload op rest image hop hfetch

/-- Settles O37, one case for each way an instruction leads on. -/
theorem environmentUnchanged : Obligations.EnvironmentUnchanged := by
  intro i s t hexec
  cases exec_cases hexec with
  | hardReset hi ht =>
    subst ht
    exact ⟨rfl, rfl, rfl, rfl, fun hr _ => absurd hi hr, fun _ _ _ _ => rfl⟩
  | checkpointLoad image mcd hi ht =>
    subst ht
    exact ⟨rfl, rfl, rfl, rfl, fun _ hload => absurd hi (hload image), fun _ _ _ _ => rfl⟩
  | dataIn hi h =>
    refine ⟨h.params, h.pending, h.inputsCard, h.inputsTap, fun _ _ => ⟨h.opRel.recv2, h.opRel.recv3⟩,
      fun hframe _ _ hwrite => ?_⟩
    exact absurd hi (not_writesDataIn hframe hwrite)
  | txData hi n h =>
    refine ⟨h.params, h.pending, h.inputsCard, h.inputsTap, fun _ _ => ⟨h.opRel.recv2, h.opRel.recv3⟩,
      fun _ htransaction hwrite _ => ?_⟩
    exact absurd hi (not_writesTxData htransaction hwrite)
  | host h =>
    exact ⟨h.params, h.pending, h.inputsCard, h.inputsTap, fun _ _ => ⟨h.recv2, h.recv3⟩, fun _ _ _ _ => h.cards⟩

/-- Settles O38: by the way the instruction leads on, and for a whole frame by its handler. -/
theorem slotChangesByMultitapAlone : Obligations.SlotChangesByMultitapAlone := by
  refine ⟨fun i s t hexec hframe hwrite hr hload => ?other, fun i m rest s t hi hm hready hexec => ?frame⟩
  case other =>
    cases exec_cases hexec with
    | hardReset hi ht => exact absurd hi hr
    | checkpointLoad image mcd hi ht => exact absurd hi (hload image)
    | dataIn hi h => exact absurd hi (not_writesDataIn hframe hwrite)
    | txData hi n h => rw [h.sio2]
    | host h => exact h.slot
  case frame =>
    rw [exec_frame i _ s hi] at hexec
    exact sendFrame_slot hm hready hexec

end Proofs

end Sys2Proof
end

section
/-! Accesses to registers and the taking of an operation: obligations O3 and O4. -/

namespace Sys2Proof

/-- A read of a register is read as the instruction of that register (R61). -/
theorem decode_encodeRead (multitap : Bool) (r : Reg) : decode multitap (encodeRead r) = readInstr r := by
  simp only [encodeRead, decode, decodeRead, regAt_addr, if_true]

/-- So is a write of a value that fits the access (R61). -/
theorem decode_encodeWrite (multitap : Bool) (r : Reg) (value : Word) (h : value.toNat < 2 ^ r.width) :
    decode multitap (encodeWrite r value) = writeInstr value r := by
  simp only [encodeWrite, decode, decodeWrite, regAt_addr, ne_eq, not_true_eq_false, if_false, Nat.not_le.mpr h]

end Sys2Proof

namespace Sys2Proof.Proofs

open Machine

/-- Settles O3: the register accesses by the register their address names, the control input, the frames and the
transactions by evaluation. -/
theorem knownPackets : Obligations.KnownPackets :=
  ⟨decode_encodeWrite true .sio0Data 0x81 (by decide),
    decode_encodeRead true .sio0Stat,
    decode_encodeWrite true (.send3 9) 0x00000901 (by decide),
    decode_encodeWrite true (.send2 3) 0xFF020505 (by decide),
    rfl, rfl, rfl, rfl, rfl, rfl, rfl⟩

/-- Settles O4: the taken operation's instruction runs, on the state `takeOp` leaves. -/
theorem stepRunsDecodedInstruction : Obligations.StepRunsDecodedInstruction := by
  intro s op rest i hop hdecode
  refine ⟨?runs, takeOp_eq op rest s, cardMem_takeOp op rest s⟩
  case runs =>
    have hfetch : fetch op.packet (takeOp op rest s) = .ok i := hdecode
    simp only [step, hop, hfetch]

end Sys2Proof.Proofs
end

section
/-! Frames of one SEND3 cycle: where the cursor stands between two of them, what a frame leaves for the next, SetSector,
the law of read after save, and obligation O59. -/

namespace Sys2Proof.Machine

/-! ### The cursor between two frames -/

/-- Between two frames of a cycle of direct writes over a table of entries: the next frame is the one of entry k (R18,
R160). -/
structure AtEntry (table : Vector Word 16) (k : Nat) (r : Sio2) : Prop where
  send3 : r.send3 = table
  position : r.send3Position = k
  unread : r.send3Read = false
  incomplete : r.send3Complete = false
  direct : r.dmaBlockSize = 0

section Entry

variable {table : Vector Word 16} {k : Nat} {s : State} (hk : k < 16)

/-- The entry decoded is the table's (R162). -/
theorem AtEntry.decodedEntry_eq {r : Sio2} (h : AtEntry table k r) :
    decodedEntry r =
      { r with
        port := entryPort table[k]
        commandLength := entryLength table[k]
        send3Complete := entryLength table[k] == 0
        send3Read := true } := by
  obtain ⟨rfl, rfl, -, hc, -⟩ := h
  simp [decodedEntry, hk, hc]

theorem AtEntry.nextPort_eq (h : AtEntry table k s.blk.sio2) : nextPort s = entryPort table[k] := by
  rw [nextPort, h.decodedEntry_eq hk]

/-- In direct mode the next frame has as many bytes as its entry's CMDLEN (R163). -/
theorem AtEntry.frameReady_entry (h : AtEntry table k s.blk.sio2) {n : Nat} (hn : n ≠ 0)
    (hl : entryLength table[k] = n) : frameReady n s = true := by
  refine (frameReady_iff n s).mpr ⟨h.unread, h.incomplete, by rw [h.position]; exact hk, ?_, ?_⟩ <;>
    rw [h.decodedEntry_eq hk]
  · rwa [hl]
  · rw [frameTarget, if_pos h.direct, hl]

end Entry

/-! ### What a frame leaves for the next one -/

/-- A frame of a native command has left the record `r` in its slot, and of the sequencer, the inputs and the parameters
what every such frame leaves. -/
structure Leaves (r : SlotRecord) (s t : State) : Prop where
  sio2 : t.blk.sio2 = (frameDone s 0x00001100 [] []).blk.sio2
  record : slotRec (nextPort s) s.blk.sio2.slot t = r
  inputs : t.inputs = s.inputs
  params : t.params = s.params

section Next

variable {table : Vector Word 16} {k : Nat} {r : SlotRecord} {s t : State}

/-- A frame's end leaves so, whatever it does to the cards. -/
theorem leaves_frameDoneSlot (reply leftover : List Byte) (cards : SlotTable Memory) (events : List Event) :
    Leaves r s { frameDoneSlot s r reply leftover with cards := cards, events := events } where
  sio2 := rfl
  record := slotRec_setSlotRec_self ..
  inputs := rfl
  params := rfl

/-- The cursor is at the next entry (R165). -/
theorem Leaves.atEntry (h : Leaves r s t) (hk : k < 16) (hs : AtEntry table k s.blk.sio2)
    (hl : entryLength table[k] ≠ 0) : AtEntry table (k + 1) t.blk.sio2 := by
  have hsio2 := h.sio2
  simp only [frameDone, hs.decodedEntry_eq hk] at hsio2
  rw [hsio2]
  exact ⟨hs.send3, congrArg (· + 1) hs.position, rfl, by simpa using hl, hs.direct⟩

theorem Leaves.slot (h : Leaves r s t) : t.blk.sio2.slot = s.blk.sio2.slot := by
  rw [h.sio2]
  exact decodedEntry_slot _

/-- The next frame, where its entry names the same port: it finds the record left, and the same card. -/
theorem Leaves.next (h : Leaves r s t) (hk : k + 1 < 16) (hs : AtEntry table k s.blk.sio2)
    (hl : entryLength table[k] ≠ 0) (hp : entryPort table[k + 1] = entryPort table[k]) :
    AtEntry table (k + 1) t.blk.sio2 ∧ nextPort t = nextPort s ∧ nextSlot t = r ∧ nextCard t = nextCard s := by
  have ht := h.atEntry (by omega) hs hl
  have hport : nextPort t = nextPort s := by rw [ht.nextPort_eq hk, hp, hs.nextPort_eq]
  refine ⟨ht, hport, ?_, ?_⟩
  · rw [nextSlot, hport, h.slot, h.record]
  · rw [nextCard, nextCard, hport, h.slot, cardInput, cardInput, h.inputs]

end Next

/-! ### SetSector on a PS2-type card (R210) -/

section SetSector

variable (s : State) (a0 a1 a2 a3 chk : Byte) (rest : List Byte)

/-- The addressed slot's record after SetSector. -/
def sectorSet : SlotRecord :=
  { nextSlot s with
    goodSector := addressGood a0 a1 a2 a3 chk
    sectorAddr := wordOfBytes a0 a1 a2 a3
    transferAddr := sectorByteAddress (nextCard s).geometry s.params.eccBytes (wordOfBytes a0 a1 a2 a3) }

theorem setSector_memcardStart (bytes : List Byte) :
    setSector (nextPort s) s.blk.sio2.slot a0 a1 a2 a3 chk (setFifoIn rest (memcardStart s bytes)) =
      setSlotRec (nextPort s) s.blk.sio2.slot (sectorSet s a0 a1 a2 a3 chk)
        (setFifoIn rest (memcardStart s bytes)) := rfl

/-- SetSector with its operands: the record, then the reply. -/
theorem mcSetSector_of_ps2 {s : State} {p : Port} {q : Slot} (base : Nat) (hg : (cardInput p q s).isPSX = false)
    (hf : s.blk.fifoIn = a0 :: a1 :: a2 :: a3 :: chk :: rest) :
    mcSetSector p q base s = .next (endReply 9 base p q (setSector p q a0 a1 a2 a3 chk (setFifoIn rest s))) := by
  rw [mcSetSector, ps1TypeGuard_of_ps2 _ _ _ _ _ hg, popIn_cons _ _ _ _ hf]
  simp only [popIn_setFifoIn]

/-- A reply reads of the record its terminator alone. -/
theorem endReply_setSlotRec (total base : Nat) (p : Port) (q : Slot) (r : SlotRecord)
    (h : r.term = (slotRec p q s).term) :
    endReply total base p q (setSlotRec p q r s) = setSlotRec p q r (endReply total base p q s) := by
  rw [endReply, endReply, slotRec_setSlotRec_self, h]
  rfl

/-- The whole frame of SetSector, under each of its three codes. -/
theorem mcSetSector_done (hg : (nextCard s).isPSX = false) :
    andThen
        (mcSetSector (nextPort s) s.blk.sio2.slot (replyBase s)
          (memcardStart s (a0 :: a1 :: a2 :: a3 :: chk :: rest)))
        (fun t => .next (sio2DmaPad t)) =
      .next (frameDoneSlot s (sectorSet s a0 a1 a2 a3 chk) (plainReply 9 s) rest) := by
  rw [mcSetSector_of_ps2 a0 a1 a2 a3 chk rest _ (isPSX_memcardStart s _ hg) (memcardStart_fifoIn s _), andThen_next,
    setSector_memcardStart, endReply_setSlotRec, sio2DmaPad_setSlotRec, endReply_done]
  · rfl
  · rfl

end SetSector

/-! ### Read after save (R47) -/

theorem Saved.stored {p : Port} {q : Slot} {addr : Word} {bytes : List Byte} {s t : State}
    (h : Saved p q addr bytes s t) (ha : (cardInput p q s).admitsSave = true) : Stored p q addr bytes s t := by
  rwa [Saved, if_pos ha] at h

/-- A stored byte is known at its address, also where the transfer goes on at 0 (log 6). -/
theorem Stored.byteAt {p : Port} {q : Slot} {addr : Word} {bytes : List Byte} {s t : State}
    (h : Stored p q addr bytes s t) (hn : bytes.length ≤ 2 ^ 32) {k : Nat} (hk : k < bytes.length) :
    Memory.byteAt (cardMem p q t) (addr + BitVec.ofNat 32 k).toNat = bytes[k]? := by
  have hoffset : (addr + BitVec.ofNat 32 k - addr).toNat = k := by
    rw [BitVec.add_comm, BitVec.add_sub_cancel, BitVec.toNat_ofNat, Nat.mod_eq_of_lt (by omega)]
  rw [h p q, hoffset, if_pos ⟨rfl, rfl, hk⟩]

/-- A read of the stored bytes that gives each known byte as it was saved gives them all. -/
theorem Stored.read_eq {p : Port} {q : Slot} {addr : Word} {bytes read : List Byte} {s t : State}
    (h : Stored p q addr bytes s t) (hn : bytes.length ≤ 2 ^ 32) (hlen : read.length = bytes.length)
    (hread : ∀ (k : Nat) (b : Byte), k < bytes.length →
      Memory.byteAt (cardMem p q t) (addr + BitVec.ofNat 32 k).toNat = some b → read[k]? = some b) :
    read = bytes := by
  refine List.ext_getElem? fun k => ?_
  by_cases hk : k < bytes.length
  · rw [hread k bytes[k] hk (by rw [h.byteAt hn hk, List.getElem?_eq_getElem hk]), List.getElem?_eq_getElem hk]
  · rw [List.getElem?_eq_none (by omega), List.getElem?_eq_none (by omega)]

end Sys2Proof.Machine

namespace Sys2Proof.Proofs

open Machine

/-- ReadData, in direct mode, of bytes that are stored where transferAddr points: the reply carries them. -/
theorem exec_mcReadData_of_stored {len : Byte} {rest bytes : List Byte} {s u : State}
    (hready : frameReady (rest.length + 3) u = true) (ha : cardAnswers u = true) (hg : (nextCard u).isPSX = false)
    (hadmit : (nextCard u).admitsRead = true) (hdirect : u.blk.sio2.dmaBlockSize = 0)
    (hstored : Stored (nextPort u) u.blk.sio2.slot (nextSlot u).transferAddr bytes s u)
    (hlen : bytes.length = len.toNat) :
    ∃ v, exec (.mcReadData len rest) u = .next v
      ∧ v.blk.fifoOut =
        u.blk.fifoOut ++ ([0x00, (nextSlot u).flag, 0x00, 0x2B] ++ bytes ++ [xorOf bytes, (nextSlot u).term]) := by
  obtain ⟨-, hread⟩ := readData len rest u hready ha
  obtain ⟨read, hreadLen, -, hknown, hexec⟩ := hread hg
  have hsmall := len.isLt
  have hbytes : read = bytes :=
    hstored.read_eq (by omega) (hreadLen.trans hlen.symm) fun k b hk => hknown hadmit k b (hlen ▸ hk)
  subst hbytes
  refine ⟨_, hexec, ?_⟩
  simp [frameDoneSlot, frameDone, dmaFill, hdirect]

/-- Settles O59: the three frames in turn. WriteData stores the bytes and moves transferAddr on, SetSector puts it back
and leaves the card, and ReadData answers what is stored from there on. -/
theorem writeThenReadAnswersTheBytes : Obligations.WriteThenReadAnswersTheBytes := by
  intro len a0 a1 a2 a3 chk data fill fill' s i hi r hwf hread hcomplete hdirect hpos hl0 hl1 hl2 hp1 hp2 ha hg hsave
    hadmit haddr hlen
  have hs : AtEntry r.send3 i s.blk.sio2 := ⟨rfl, hpos, hread, hcomplete, hdirect⟩
  -- WriteData, from `s` to `t`
  obtain ⟨-, -, hwrite⟩ := writeData len data s hwf (hs.frameReady_entry (by omega) (by omega) hl0) ha
  obtain ⟨t, hwriteExec, hsaved, ht⟩ := hwrite hg hlen
  have hst : Leaves (advanced s len.toNat) s t := by
    rw [ht]
    exact leaves_frameDoneSlot ..
  obtain ⟨htEntry, htPort, htSlot, htCard⟩ := hst.next (by omega) hs (by omega) hp1
  have htAnswers : cardAnswers t = true := by
    rw [cardAnswers, htSlot, htCard]
    exact ha
  -- SetSector, from `t` to `u`
  let u := frameDoneSlot t (sectorSet t a0 a1 a2 a3 chk) (plainReply 9 t) fill
  have hsetExec : exec (.mcSetReadSector a0 a1 a2 a3 chk fill) t = .next u := by
    rw [exec_memcard t _ 0x23 (a0 :: a1 :: a2 :: a3 :: chk :: fill) rfl
      (htEntry.frameReady_entry (by omega) (by simp) (by simpa using hl1)) htAnswers, mcCommand_setReadSector,
      mcSetSector_done t _ _ _ _ _ _ (by rw [htCard, hg])]
  have htu : Leaves (sectorSet t a0 a1 a2 a3 chk) t u := leaves_frameDoneSlot ..
  obtain ⟨huEntry, huPort, huSlot, huCard⟩ := htu.next hi htEntry (by omega) (hp2.trans hp1.symm)
  have huAnswers : cardAnswers u = true := by
    rw [cardAnswers, huSlot, huCard]
    exact htAnswers
  have huAddr : (nextSlot u).transferAddr = (nextSlot s).transferAddr := by
    rw [huSlot, haddr, ← htCard, ← hst.params]
    rfl
  -- ReadData, from `u`
  have hstored : Stored (nextPort u) u.blk.sio2.slot (nextSlot u).transferAddr (data.take len.toNat) s u := by
    rw [huPort, htPort, htu.slot, hst.slot, huAddr]
    exact hsaved.stored hsave
  obtain ⟨v, hreadExec, hout⟩ :=
    exec_mcReadData_of_stored (huEntry.frameReady_entry hi (by omega) hl2) huAnswers
      (by rw [huCard, htCard, hg]) (by rw [huCard, htCard, hadmit]) huEntry.direct hstored (List.length_take_of_le hlen)
  refine ⟨v, ?_, ⟨u.blk.fifoOut, ?_⟩⟩
  · simp only [runAll, hwriteExec, hsetExec, hreadExec, andThen_next]
  · have hflag : (nextSlot u).flag = (nextSlot s).flag := by rw [huSlot, sectorSet, htSlot, advanced]
    have hterm : (nextSlot u).term = (nextSlot s).term := by rw [huSlot, sectorSet, htSlot, advanced]
    rw [hout, hflag, hterm]

end Sys2Proof.Proofs
end

section
/-! The encoder and the decoder, each the other's inverse, and what a frame and a transaction are to the host:
obligations O1, O2 and O6. -/

namespace Sys2Proof

/-! ### What the bytes outside the tables select (R69 to R74) -/

theorem frameModeOf_unknown_iff : ∀ m : Byte,
    frameModeOf m = .unknown ↔ (!Codes.frameModes.contains m) = true := by
  decide

theorem mtapCommandOf_unknown_iff : ∀ c : Byte,
    mtapCommandOf c = .unknown ↔ (!Codes.mtapCommands.contains c) = true := by
  decide

theorem mcCommandOf_unknown_iff : ∀ c : Byte,
    mcCommandOf c = .unknown ↔ (!Codes.memcardCommands.contains c) = true := by
  decide

theorem ps1CommandOf_unknown_iff : ∀ c : Byte,
    ps1CommandOf c = .unknown ↔ (!Codes.ps1Commands.contains c) = true := by
  decide

theorem authInstr_of_unknown {sub : Byte} (rest : List Byte) (h : 0x14 < sub.toNat) :
    authInstr sub rest = .mcAuthXorUnknown sub rest := by
  unfold authInstr
  split
  case h_22 => rfl
  all_goals omega

/-! ### Decoding what was encoded -/

section Decode

variable {multitap : Bool}

/-- A value as wide as the register comes back from the bus as it was. -/
theorem decode_encodeWrite_setWidth {n : Nat} {mk : BitVec n → Instr} (r : Reg) (v : BitVec n) (hr : r.width = n)
    (hn : n ≤ 32) (hmk : ∀ w, writeInstr w r = .ok (mk (w.setWidth n))) :
    decode multitap (encodeWrite r (v.setWidth 32)) = .ok (mk v) := by
  have hfits : (v.setWidth 32).toNat < 2 ^ r.width := by
    rw [hr, BitVec.toNat_setWidth_of_le hn]
    exact v.isLt
  rw [decode_encodeWrite multitap r _ hfits, hmk, BitVec.setWidth_setWidth_of_le v hn, BitVec.setWidth_eq]

theorem decode_encodeWrite_word (r : Reg) (v : Word) (hr : r.width = 32) :
    decode multitap (encodeWrite r v) = writeInstr v r :=
  decode_encodeWrite multitap r v (by rw [hr]; exact v.isLt)

theorem decodeSlot_val (mk : Port → Slot → Instr) (p : Port) (q : Slot) :
    decodeSlot mk [p.val, q.val] = .ok (mk p q) :=
  dif_pos ⟨p.isLt, q.isLt⟩

theorem decode_frame_unknownMode {m : Byte} (rest : List Byte) (h : (!Codes.frameModes.contains m) = true) :
    decode multitap (.frame (m :: rest)) = .ok (.s2UnknownMode m rest) := by
  simp only [decode, decodeFrame, (frameModeOf_unknown_iff m).mpr h]

theorem decode_frame_mtapUnknown {c : Byte} (rest : List Byte) (h : (!Codes.mtapCommands.contains c) = true) :
    decode true (.frame (config.modeMultitap :: c :: rest)) = .ok (.mtapUnknown c rest) := by
  change decodeMultitap c rest = _
  simp only [decodeMultitap, (mtapCommandOf_unknown_iff c).mpr h]

theorem decode_frame_mcUnknown {c : Byte} (rest : List Byte) (h : (!Codes.memcardCommands.contains c) = true) :
    decode multitap (.frame (config.modeMemcard :: c :: rest)) = .ok (.mcUnknown c rest) := by
  change decodeMemcard c rest = _
  simp only [decodeMemcard, (mcCommandOf_unknown_iff c).mpr h]

theorem decode_frame_authXor (sub : Byte) (rest : List Byte) :
    decode multitap (.frame (config.modeMemcard :: config.mcAuthXor :: sub :: rest)) = .ok (authInstr sub rest) :=
  rfl

theorem decode_transaction_pad (c : Byte) (rest : List Byte) :
    decode multitap (.transaction (config.modePad :: c :: rest)) =
      if Codes.isPadCommand c then .ok (.s0Pad (c.setWidth 4) rest) else endsHere (.s0PadUnknown c) rest :=
  rfl

theorem decode_transaction_memcardUnknown {c : Byte} (h : (!Codes.ps1Commands.contains c) = true) :
    decode multitap (.transaction [config.modeMemcard, c]) = .ok (.s0MemcardUnknown c) := by
  change decodeTransaction [0x81, c] = _
  simp only [decodeTransaction, (ps1CommandOf_unknown_iff c).mpr h]
  rfl

theorem decode_transaction_unknownMode {m : Byte} (h : (!Codes.transactionModes.contains m) = true) :
    decode multitap (.transaction [m]) = .ok (.s0UnknownMode m) := by
  obtain ⟨hpad, hmemcard⟩ : m ≠ config.modePad ∧ m ≠ config.modeMemcard := by simpa using h
  simp only [decode, decodeTransaction, if_neg hpad, if_neg hmemcard, endsHere]

end Decode

end Sys2Proof

namespace Sys2Proof.Proofs

/-- Settles O1: the register accesses by the register their address names, the "unknown" rows by their conditions, the
rows that name every fixed byte by evaluation. -/
theorem decodeOfEncode : Obligations.DecodeOfEncode := by
  intro i hwf
  cases i with
  | rd8Sio0RxData | rd32Sio0Stat | rd16Sio0Ctrl | rd16Sio0Mode | rd32Sio2Send3 | rd32Sio2Send1 | rd32Sio2Send2
  | rd8Sio2DataOut | rd32Sio2Ctrl | rd32Sio2Recv1 | rd32Sio2Recv2 | rd32Sio2Recv3 => exact decode_encodeRead _ _
  | wr32Sio0Stat | wr32Sio2Send3 | wr32Sio2Send1 | wr32Sio2Send2 | wr32Sio2Ctrl | wr32Sio2Recv1 | wr32Sio2Recv2
  | wr32Sio2Recv3 => exact decode_encodeWrite_word _ _ rfl
  | wr8Sio0TxData b => exact decode_encodeWrite_setWidth .sio0Data b rfl (by decide) fun _ => rfl
  | wr8Sio2DataIn b => exact decode_encodeWrite_setWidth .dataIn b rfl (by decide) fun _ => rfl
  | wr16Sio0Ctrl v => exact decode_encodeWrite_setWidth .sio0Ctrl v rfl (by decide) fun _ => rfl
  | wr16Sio0Mode v => exact decode_encodeWrite_setWidth .sio0Mode v rfl (by decide) fun _ => rfl
  | pinAeSet p q => exact decodeSlot_val .pinAeSet p q
  | pinAeClear p q => exact decodeSlot_val .pinAeClear p q
  | pinCheckpointLoad image => exact if_pos hwf
  | s2UnknownMode m rest => exact decode_frame_unknownMode rest hwf
  | mtapUnknown c rest => exact decode_frame_mtapUnknown rest hwf
  | mcUnknown c rest => exact decode_frame_mcUnknown rest hwf
  | mcAuthXorUnknown sub rest =>
    have hsub : 0x14 < sub.toNat := of_decide_eq_true ((Codes.authSubModes_contains sub).symm.trans hwf)
    exact (decode_frame_authXor sub rest).trans (congrArg _ (authInstr_of_unknown rest hsub))
  | s0Pad c rest =>
    obtain ⟨hpad, hnibble⟩ := isPadCommand_padCommandByte c
    exact (decode_transaction_pad _ rest).trans (by rw [if_pos hpad, hnibble])
  | s0PadUnknown c =>
    have hpad : ¬Codes.isPadCommand c = true := by simpa [Instr.wf] using hwf
    exact (decode_transaction_pad c []).trans (if_neg hpad)
  | s0MemcardUnknown c => exact decode_transaction_memcardUnknown hwf
  | s0UnknownMode m => exact decode_transaction_unknownMode hwf
  | _ => rfl

end Sys2Proof.Proofs

namespace Sys2Proof

/-! ### Encoding what was decoded -/

/-- What the decoder may answer to a packet: a rejection, or a well-formed instruction with that packet. -/
def Faithful (p : Packet) : Except DecodeError Instr → Prop
  | .ok i => encode i = p ∧ i.wf = true
  | .error _ => True

theorem Faithful.of_ok {p : Packet} {i : Instr} {r : Except DecodeError Instr} (hr : Faithful p r) (h : r = .ok i) :
    encode i = p ∧ i.wf = true := by
  subst h
  exact hr

theorem readInstr_faithful (r : Reg) : Faithful (encodeRead r) (readInstr r) := by
  cases r with
  | dataIn => trivial
  | _ => exact ⟨rfl, rfl⟩

theorem writeInstr_faithful (r : Reg) {value : Word} (h : value.toNat < 2 ^ r.width) :
    Faithful (encodeWrite r value) (writeInstr value r) := by
  cases r with
  | sio0Data | sio0Mode | sio0Ctrl | dataIn => exact ⟨congrArg _ (BitVec.setWidth_setWidth_eq_self h), rfl⟩
  | dataOut => trivial
  | _ => exact ⟨rfl, rfl⟩

theorem decodeRead_faithful (a : Word) (width : Nat) : Faithful (.read a width) (decodeRead a width) := by
  unfold decodeRead
  split
  · trivial
  · next r hr =>
    split
    · next hwidth =>
      rw [addr_of_regAt a r hr, hwidth]
      exact readInstr_faithful r
    · trivial

theorem decodeWrite_faithful (a : Word) (width : Nat) (value : Word) :
    Faithful (.write a width value) (decodeWrite a width value) := by
  unfold decodeWrite
  split
  · trivial
  · next r hr =>
    split_ifs with hwidth hvalue
    · trivial
    · trivial
    · obtain rfl : width = r.width := not_not.mp hwidth
      rw [addr_of_regAt a r hr]
      exact writeInstr_faithful r (Nat.not_le.mp hvalue)

theorem decodeNoArgs_faithful {code : BitVec 4} {i : Instr} (hi : encode i = .pin code [] none ∧ i.wf = true)
    (args : List Nat) : Faithful (.pin code args none) (decodeNoArgs i args) := by
  cases args with
  | nil => exact hi
  | cons => trivial

theorem decodeSlot_faithful {code : BitVec 4} {mk : Port → Slot → Instr}
    (hmk : ∀ p q, encode (mk p q) = .pin code [p.val, q.val] none ∧ (mk p q).wf = true) (args : List Nat) :
    Faithful (.pin code args none) (decodeSlot mk args) := by
  unfold decodeSlot
  split
  · split
    · exact hmk _ _
    · trivial
  · trivial

theorem decodePin_faithful (code : BitVec 4) (args : List Nat) :
    Faithful (.pin code args none) (decodePin code args) := by
  unfold decodePin
  split_ifs with h0 h1 h2 h3 h4 h5
  · exact h0 ▸ decodeNoArgs_faithful ⟨rfl, rfl⟩ args
  · split
    · exact h1 ▸ ⟨rfl, rfl⟩
    · trivial
  · exact h2 ▸ decodeSlot_faithful (fun _ _ => ⟨rfl, rfl⟩) args
  · exact h3 ▸ decodeSlot_faithful (fun _ _ => ⟨rfl, rfl⟩) args
  · exact h4 ▸ decodeNoArgs_faithful ⟨rfl, rfl⟩ args
  · exact h5 ▸ decodeNoArgs_faithful ⟨rfl, rfl⟩ args
  · trivial
  · trivial

theorem decodeImage_faithful (code : BitVec 4) (args : List Nat) (image : Image) :
    Faithful (.pin code args (some image)) (decodeImage code args image) := by
  unfold decodeImage
  split
  · next hcode =>
    subst hcode
    split
    · split
      · next himage => exact ⟨rfl, himage⟩
      · trivial
    · trivial
  · trivial

theorem authInstr_faithful (sub : Byte) (rest : List Byte) :
    Faithful (.frame (config.modeMemcard :: config.mcAuthXor :: sub :: rest)) (.ok (authInstr sub rest)) := by
  by_cases hsub : 0x14 < sub.toNat
  · rw [authInstr_of_unknown rest hsub]
    exact ⟨rfl, (Codes.authSubModes_contains sub).trans (decide_eq_true hsub)⟩
  · unfold authInstr
    split
    -- no number up to 0x14 falls past the 21 rows
    case h_22 => grind
    all_goals
      next hk =>
        obtain ⟨-, rfl⟩ := BitVec.toNat_eq_nat.mp hk
        exact ⟨rfl, rfl⟩

theorem decodeMemcard_faithful (c : Byte) (bytes : List Byte) :
    Faithful (.frame (config.modeMemcard :: c :: bytes)) (decodeMemcard c bytes) := by
  have hcode := mcCommandOf_cases c
  simp only [decodeMemcard]
  cases hk : mcCommandOf c <;>
    simp only [hk, reduceCtorEq, false_and, true_and, false_or, or_false] at hcode
  case unknown => exact ⟨rfl, (mcCommandOf_unknown_iff c).mp hk⟩
  all_goals subst hcode
  case setEraseSector | setWriteSector | setReadSector =>
    match bytes with
    | _ :: _ :: _ :: _ :: _ :: _ => exact ⟨rfl, rfl⟩
    | [] | [_] | [_, _] | [_, _, _] | [_, _, _, _] => trivial
  case setTerminator | writeData | readData =>
    cases bytes with
    | nil => trivial
    | cons => exact ⟨rfl, rfl⟩
  case authXor =>
    cases bytes with
    | nil => trivial
    | cons sub rest => exact authInstr_faithful sub rest
  all_goals exact ⟨rfl, rfl⟩

theorem decodeMultitap_faithful (c : Byte) (bytes : List Byte) :
    Faithful (.frame (config.modeMultitap :: c :: bytes)) (decodeMultitap c bytes) := by
  rcases mtapCommandOf_cases c with ⟨-, rfl⟩ | ⟨-, rfl⟩ | ⟨-, rfl⟩ | ⟨-, rfl⟩ | ⟨hc, -⟩
  · exact ⟨rfl, rfl⟩
  · exact ⟨rfl, rfl⟩
  · cases bytes with
    | nil => trivial
    | cons => exact ⟨rfl, rfl⟩
  · cases bytes with
    | nil => trivial
    | cons => exact ⟨rfl, rfl⟩
  · simp only [decodeMultitap, hc]
    exact ⟨rfl, (mtapCommandOf_unknown_iff c).mp hc⟩

theorem decodeFrame_faithful (multitap : Bool) (bytes : List Byte) :
    Faithful (.frame bytes) (decodeFrame multitap bytes) := by
  cases bytes with
  | nil => trivial
  | cons m bytes =>
    rcases frameModeOf_cases m with ⟨-, rfl⟩ | ⟨-, rfl⟩ | ⟨-, rfl⟩ | ⟨-, rfl⟩ | ⟨hm, -⟩
    · exact ⟨rfl, rfl⟩
    · cases multitap with
      | false => exact ⟨rfl, rfl⟩
      | true =>
        cases bytes with
        | nil => trivial
        | cons c rest => exact decodeMultitap_faithful c rest
    · cases bytes with
      | nil => trivial
      | cons => exact ⟨rfl, rfl⟩
    · cases bytes with
      | nil => trivial
      | cons c rest => exact decodeMemcard_faithful c rest
    · simp only [decodeFrame, hm]
      exact ⟨rfl, (frameModeOf_unknown_iff m).mp hm⟩

theorem endsHere_faithful {i : Instr} {first : List Byte} (hi : encode i = .transaction first ∧ i.wf = true)
    (bytes : List Byte) : Faithful (.transaction (first ++ bytes)) (endsHere i bytes) := by
  cases bytes with
  | nil => rwa [List.append_nil]
  | cons => trivial

/-- A pad command byte is the one of its low nibble. -/
theorem padCommandByte_setWidth : ∀ c : Byte,
    Codes.isPadCommand c = true → padCommandByte (c.setWidth 4) = c := by
  decide

theorem decodeTransaction_faithful (bytes : List Byte) :
    Faithful (.transaction bytes) (decodeTransaction bytes) := by
  cases bytes with
  | nil => trivial
  | cons m bytes =>
    simp only [decodeTransaction]
    split_ifs with hpad hmemcard
    · subst hpad
      cases bytes with
      | nil => trivial
      | cons c rest =>
        dsimp only
        split
        · next hc =>
          have hbyte : padCommandByte (c.setWidth 4) = c := padCommandByte_setWidth c hc
          exact ⟨congrArg (fun b => Packet.transaction (_ :: b :: rest)) hbyte, rfl⟩
        · next hc => exact endsHere_faithful (first := [_, c]) ⟨rfl, by simpa [Instr.wf] using hc⟩ rest
    · subst hmemcard
      cases bytes with
      | nil => trivial
      | cons c rest =>
        rcases ps1CommandOf_cases c with ⟨-, rfl⟩ | ⟨-, rfl⟩ | ⟨-, rfl⟩ | ⟨-, rfl⟩ | ⟨hc, -⟩
        · exact ⟨rfl, rfl⟩
        · exact ⟨rfl, rfl⟩
        · exact ⟨rfl, rfl⟩
        · exact endsHere_faithful (first := [_, _]) ⟨rfl, rfl⟩ rest
        · simp only [hc]
          exact endsHere_faithful (i := .s0MemcardUnknown c) ⟨rfl, (ps1CommandOf_unknown_iff c).mp hc⟩ rest
    · exact endsHere_faithful (first := [m]) ⟨rfl, by simpa [Instr.wf] using ⟨hpad, hmemcard⟩⟩ bytes

theorem decode_faithful (multitap : Bool) (p : Packet) : Faithful p (decode multitap p) := by
  cases p with
  | read a width => exact decodeRead_faithful a width
  | write a width value => exact decodeWrite_faithful a width value
  | pin code args image =>
    cases image with
    | none => exact decodePin_faithful code args
    | some image => exact decodeImage_faithful code args image
  | frame bytes => exact decodeFrame_faithful multitap bytes
  | transaction bytes => exact decodeTransaction_faithful bytes

end Sys2Proof

namespace Sys2Proof.Machine

/-! ### Frames and transactions as register writes (log 9) -/

theorem sendFrame_eq_runAll (bytes : List Byte) (s : State) :
    sendFrame bytes s = runAll (bytes.map Instr.wr8Sio2DataIn) s := by
  induction bytes generalizing s with
  | nil => rfl
  | cons b bytes ih => exact congrArg (andThen (sio2Write b s)) (funext ih)

theorem sendTransaction_eq_runAll (bytes : List Byte) (s : State) :
    sendTransaction bytes s = runAll (bytes.map Instr.wr8Sio0TxData) s := by
  induction bytes generalizing s with
  | nil => rfl
  | cons b bytes ih => exact congrArg (andThen (txWrite b s)) (funext ih)

end Sys2Proof.Machine

namespace Sys2Proof.Proofs

open Machine

/-- Settles O2: every function of the decoder answers only the packet it was given. -/
theorem encodeOfDecode : Obligations.EncodeOfDecode :=
  fun multitap p _ h => (decode_faithful multitap p).of_ok h

/-- Settles O6: the row sends its bytes, and sending them is the run of the writes. -/
theorem framesAndTransactionsAreTheirBytes : Obligations.FramesAndTransactionsAreTheirBytes := by
  intro i bytes s
  refine ⟨fun hframe => ?_, fun htransaction => ?_⟩
  · rw [exec_frame i bytes s hframe, sendFrame_eq_runAll]
  · rw [exec_transaction i bytes s htransaction, sendTransaction_eq_runAll]

end Sys2Proof.Proofs
end

section
/-! The SIO0 registers: what a read clears, the three arms of a CTRL write (R94), and obligations O13 and O14. -/

namespace Sys2Proof.Machine

/-! ### The masks of STAT and CTRL -/

/-- Clearing the mask of one bit clears that bit alone. -/
theorem getLsbD_clearBits_twoPow (x : Word) (i k : Nat) :
    (clearBits x (BitVec.twoPow 32 i)).getLsbD k = (x.getLsbD k && k != i) := by
  rw [clearBits, BitVec.getLsbD_and, BitVec.getLsbD_not, BitVec.getLsbD_twoPow]
  by_cases hk : k < 32
  · grind
  · rw [BitVec.getLsbD_of_ge x k (Nat.not_lt.mp hk), Bool.false_and, Bool.false_and]

/-- The bits that an ACK clears are 3, 7 and 9 (R63, R94). -/
theorem statAfterCtrlAck_eq (x : Word) : statAfterCtrlAck x = x &&& 0xFFFFFD77 := rfl

/-- Without RESET, CTRL is left with the written value but for its bit 4 (R12, R94). -/
theorem ctrlLeft_of_not_reset {v : Half} (h : v.getLsbD 6 = false) : ctrlLeft v = v &&& 0xFFEF := by
  have hmask : (0xFFEF : Half) = ~~~BitVec.twoPow 16 4 := by decide
  rw [ctrlLeft, config_ctrlReset, config_ctrlAck, h, if_neg Bool.false_ne_true]
  split
  · rfl
  · next hack =>
    apply BitVec.eq_of_getLsbD_eq
    intro k hk
    rw [hmask, BitVec.getLsbD_and, BitVec.getLsbD_not, BitVec.getLsbD_twoPow]
    grind

/-! ### The write of CTRL (R94) -/

section Ctrl

variable {v : Half} (s : State)

theorem exec_wr16Sio0Ctrl (v : Half) :
    exec (.wr16Sio0Ctrl v) s =
      .next (ctrlResetArm v (ctrlAckArm v (ctrlZeroArm v (setSio0 { s.blk.sio0 with ctrl := v } s)))) := rfl

/-- The value-0 arm and the ACK arm write the SIO0 group and the PS1 record alone. -/
theorem ctrlArms_frame (v : Half) : ∃ r q, ctrlAckArm v (ctrlZeroArm v s) = setPs1 q (setSio0 r s) := by
  unfold ctrlAckArm ctrlZeroArm
  split_ifs
  all_goals exact ⟨_, _, rfl⟩

/-- RESET leaves the whole group and the PS1 record afresh, whatever the arms before it did. -/
theorem exec_wr16Sio0Ctrl_of_reset (h : v.getLsbD 6 = true) :
    exec (.wr16Sio0Ctrl v) s =
      .next
        { s with
          blk.sio0 :=
            { stat := 0, ctrl := 0, mode := 0, rxData := 0, txData := 0, stage := .idle, sioMode := .notSet
              command := 0 }
          blk.ps1 := Ps1.start } := by
  obtain ⟨r, q, hframe⟩ := ctrlArms_frame (setSio0 { s.blk.sio0 with ctrl := v } s) v
  rw [exec_wr16Sio0Ctrl, hframe, ctrlResetArm, config_ctrlReset, if_pos h, sio0SoftReset_eq]
  rfl

/-- The value 0 stores it and resets the protocol; it has neither ACK nor RESET. -/
theorem exec_wr16Sio0Ctrl_zero :
    exec (.wr16Sio0Ctrl 0) s =
      .next
        { s with
          blk.sio0 := { s.blk.sio0 with ctrl := 0, stage := .idle, sioMode := .notSet, command := 0 }
          blk.ps1 := Ps1.start } := rfl

/-- Any other value is stored without its ACK bit, and that bit clears three bits of STAT. -/
theorem exec_wr16Sio0Ctrl_of_stored (h : v.getLsbD 6 = false) (hv : v ≠ 0) :
    exec (.wr16Sio0Ctrl v) s =
      .next
        { s with
          blk.sio0.ctrl := v &&& 0xFFEF
          blk.sio0.stat := if v.getLsbD 4 then s.blk.sio0.stat &&& 0xFFFFFD77 else s.blk.sio0.stat } := by
  have hzero : ctrlZeroArm v s = s := if_neg hv
  have hreset (t : State) : ctrlResetArm v t = t := if_neg (Bool.eq_false_iff.mp h)
  rw [exec_wr16Sio0Ctrl, ctrlArms_store, hzero, hreset, ctrlLeft_of_not_reset h, ctrlAckArm, config_ctrlAck,
    statAfterCtrlAck_eq]
  split <;> rfl

end Ctrl

end Sys2Proof.Machine

namespace Sys2Proof.Proofs

open Machine

/-- Settles O13: each access is one update of the SIO0 group or one event, and the cleared bits are single ones. -/
theorem sio0Registers : Obligations.Sio0Registers := by
  intro s
  refine ⟨⟨_, rfl, ?rxData⟩, ⟨_, rfl, ?stat⟩, rfl, rfl, fun _ => rfl, fun _ => rfl⟩
  case rxData => exact getLsbD_clearBits_twoPow s.blk.sio0.stat 1
  case stat => exact getLsbD_clearBits_twoPow s.blk.sio0.stat 7

/-- Settles O14: RESET, else the value 0, else a stored value. -/
theorem sio0CtrlWrite : Obligations.Sio0CtrlWrite := by
  intro v s
  by_cases hreset : v.getLsbD 6 = true
  · rw [if_pos hreset, exec_wr16Sio0Ctrl_of_reset s hreset]
  · rw [if_neg hreset]
    by_cases hzero : v = 0
    · rw [if_pos hzero, hzero, exec_wr16Sio0Ctrl_zero]
    · rw [if_neg hzero, exec_wr16Sio0Ctrl_of_stored s (Bool.eq_false_iff.mpr hreset) hzero]

end Sys2Proof.Proofs
end

section
/-! The SIO2 registers: the entry a bank's write stores, SEND3's soft reset, DATA_OUT, CTRL's request, and obligations
O28 to O31. -/

namespace Sys2Proof.Machine

/-- An entry of a bank after one was replaced. -/
theorem bank_set {n : Nat} (bank : Vector Word n) (i : Fin n) (w : Word) (j : Fin n) :
    (bank.set i w)[j] = if j = i then w else bank[j] := by
  rw [Fin.getElem_fin, Vector.getElem_set]
  simp only [Fin.ext_iff, eq_comm, Fin.getElem_fin]

section Registers

variable (s : State)

/-! ### SEND3 (R100) -/

/-- Of the entries but 0 a write stores and does no more. -/
theorem exec_wr32Sio2Send3_of_ne {i : Fin 16} (h : i ≠ 0) (w : Word) :
    exec (.wr32Sio2Send3 i w) s = .next { s with blk.sio2.send3 := s.blk.sio2.send3.set i w } :=
  congrArg Host.Outcome.next (if_neg h)

/-- The write of entry 0 soft-resets the sequencer after the store (R312). -/
theorem exec_wr32Sio2Send3_zero (w : Word) :
    exec (.wr32Sio2Send3 0 w) s =
      .next (sio2SoftReset { s with blk.sio2.send3 := s.blk.sio2.send3.set (0 : Fin 16) w }) := rfl

/-! ### DATA_OUT (R105) -/

theorem exec_rd8Sio2DataOut_of_nil (h : s.blk.fifoOut = []) :
    exec .rd8Sio2DataOut s = .next (emit (.read8 0x00) s) := by
  have hexec : exec .rd8Sio2DataOut s = execRd8Sio2DataOut s := rfl
  simp only [hexec, execRd8Sio2DataOut, h, config_deadAir]

theorem exec_rd8Sio2DataOut_of_cons {b : Byte} {bytes : List Byte} (h : s.blk.fifoOut = b :: bytes) :
    exec .rd8Sio2DataOut s = .next (emit (.read8 b) (setFifoOut bytes s)) := by
  have hexec : exec .rd8Sio2DataOut s = execRd8Sio2DataOut s := rfl
  simp only [hexec, execRd8Sio2DataOut, h]

/-! ### CTRL (R106) -/

theorem ctrlRequests_eq_false_iff (v : Word) :
    ctrlRequests v s = false ↔ s.params.sio2IrqNeedsStart = true ∧ v.getLsbD 0 = false := by
  rw [ctrlRequests, Bool.or_eq_false_iff, Bool.not_eq_false', Codes.sio2StartTransfer]

/-- A CTRL write stores, and its interrupt request is the one event it can have. -/
theorem exec_wr32Sio2Ctrl (v : Word) :
    exec (.wr32Sio2Ctrl v) s =
      .next
        { s with
          blk.sio2.ctrl := v
          events := s.events ++ if ctrlRequests v s = false then [] else [.irq .sio2] } := by
  have hexec : exec (.wr32Sio2Ctrl v) s = execWr32Sio2Ctrl v s := rfl
  rw [hexec, execWr32Sio2Ctrl]
  cases ctrlRequests v s with
  | false =>
    rw [if_pos rfl, List.append_nil]
    rfl
  | true => rfl

end Registers

end Sys2Proof.Machine

namespace Sys2Proof.Proofs

open Machine

/-- Settles O28: the entry is stored, and only the write of entry 0 soft-resets after it. -/
theorem send3Write : Obligations.Send3Write := by
  intro i w s
  by_cases h : i = 0
  · subst h
    exact ⟨_, exec_wr32Sio2Send3_zero s w, bank_set s.blk.sio2.send3 0 w, rfl⟩
  · exact ⟨_, exec_wr32Sio2Send3_of_ne s h w, bank_set s.blk.sio2.send3 i w, (if_neg h).symm⟩

/-- Settles O29: a read is one event, a SEND1 or SEND2 write replaces one entry of its bank. -/
theorem sendTables : Obligations.SendTables :=
  fun s =>
    ⟨fun _ => rfl, fun i w =>
      ⟨rfl, rfl, ⟨_, rfl, bank_set s.blk.sio2.send1 i w⟩, ⟨_, rfl, bank_set s.blk.sio2.send2 i w⟩⟩⟩

/-- Settles O30, by the queue: empty it stays as it is, else its head is taken. -/
theorem dataOut : Obligations.DataOut := by
  intro s
  cases h : s.blk.fifoOut with
  | nil =>
    have hkeep : setFifoOut [] s = s := by
      rw [← h]
      rfl
    rw [exec_rd8Sio2DataOut_of_nil s h]
    exact congrArg (fun t => Host.Outcome.next (emit (.read8 0x00) t)) hkeep.symm
  | cons b bytes => exact exec_rd8Sio2DataOut_of_cons s h

/-- Settles O31: CTRL's write by whether it requests, the other accesses as one event, one store or nothing. -/
theorem sio2Registers : Obligations.Sio2Registers := by
  intro v n s
  refine ⟨?ctrl, rfl, rfl, rfl, rfl, rfl, rfl, rfl, rfl⟩
  case ctrl => simp only [exec_wr32Sio2Ctrl, ctrlRequests_eq_false_iff]

end Sys2Proof.Proofs
end

section
/-! One TX_DATA write, as a whole next state, in each stage and mode of SIO0, and obligations O15 to O19. -/

namespace Sys2Proof.Machine

section Write

variable {s : State} (b : Byte)

/-! ### The end of a write (R90) -/

/-- The state a command byte leaves that is not recognised: 0xFF, and the soft reset of SIO0 (R135, R138). -/
def txViolated (s : State) (b : Byte) : State :=
  { txDone s b 0xFF false .idle .notSet with
    blk.sio0.command := 0x00
    blk.ps1 := Ps1.start }

/-- The state a latched PS1 command leaves (R136). -/
def ps1Latched (s : State) (b : Byte) : State :=
  { txDone s b (slotRec (sio0Port s) 0 s).flag true .working .memcard with
    blk.sio0.command := b
    blk.ps1 := Ps1.start }

/-- The soft reset is stage IDLE without a mode, and beside it the command and the PS1 record. -/
theorem txReplied_s0Unrecognised (s : State) :
    txReplied (s0Unrecognised (txStored b s)).1 (s0Unrecognised (txStored b s)).2 = txViolated s b := by
  have hreset := congrArg ps1Reset (congrArg (fun t => setSio0 { t.blk.sio0 with command := 0 } t)
    (txReplied_setStage b s Codes.violation false .idle .notSet))
  exact hreset

/-- The latch is stage WORKING with its acknowledge, and beside it the command and the PS1 record. -/
theorem txReplied_s0Latch (s : State) :
    txReplied (s0Latch b (txStored b s)).1 (s0Latch b (txStored b s)).2 = ps1Latched s b := by
  have hlatch := congrArg ps1Reset (congrArg (fun t => setSio0 { t.blk.sio0 with command := b } t)
    (txReplied_setStage b s (slotRec (sio0Port s) 0 s).flag true .working .memcard))
  exact hlatch

/-- The pad's reply to a startPoll, and a stage. -/
theorem txReplied_padStart (s : State) (p : Port) (reply : Byte) (ack : Bool) (stage : Stage) (mode : SioMode) :
    txReplied reply (setStage stage mode (ackIf ack (padStartCall p 0 (txStored b s)))) =
      txDone (padCalled (.padStart p 0) s) b reply ack stage mode := by
  rw [padStartCall_padCalled, ← txReplied_setStage]
  rfl

/-- The pad's reply to a poll, and a stage. -/
theorem txReplied_padPoll (s : State) (reply : Byte) (ack : Bool) (stage : Stage) (mode : SioMode) :
    txReplied reply (setStage stage mode (ackIf ack (padPollCall b (txStored b s)))) =
      txDone (padCalled (.padPoll b) s) b reply ack stage mode := by
  rw [padPollCall_padCalled, ← txReplied_setStage]
  rfl

/-! ### Stage IDLE: the mode byte (R131 to R133) -/

theorem s0Idle_pad (s : State) : s0Idle 0x01 s = s0PadMode s := if_pos rfl

theorem s0Idle_memcard (s : State) : s0Idle 0x81 s = s0MemcardMode s := (if_neg (by decide)).trans (if_pos rfl)

theorem s0Idle_unknown {b : Byte} (s : State) (hpad : b ≠ 0x01) (hmemcard : b ≠ 0x81) : s0Idle b s = (0x00, s) :=
  (if_neg hpad).trans (if_neg hmemcard)

theorem s0MemcardMode_armed (h : 0 < (slotRec (sio0Port s) 0 s).autoEjectTicks) :
    s0MemcardMode s = (0x00, countAccess (sio0Port s) 0 s) :=
  if_pos h

theorem s0MemcardMode_noPs1Card (h : ¬0 < (slotRec (sio0Port s) 0 s).autoEjectTicks)
    (hcard : ((cardInput (sio0Port s) 0 s).present && (cardInput (sio0Port s) 0 s).isPSX) = false) :
    s0MemcardMode s = (0x00, s) :=
  (if_neg h).trans (if_pos hcard)

theorem s0MemcardMode_accepted (h : ¬0 < (slotRec (sio0Port s) 0 s).autoEjectTicks)
    (hcard : ((cardInput (sio0Port s) 0 s).present && (cardInput (sio0Port s) 0 s).isPSX) = true) :
    s0MemcardMode s = (0x00, setStage .waitingCommand .memcard (ackIf true s)) :=
  (if_neg h).trans (if_neg (Bool.not_eq_false _ ▸ hcard))

section Idle

variable (hidle : sio0Idle s = true)
include hidle

theorem txWrite_modeByte {r : Byte} {t : State} (h : s0Idle b (txStored b s) = (r, t)) :
    txWrite b s = .next (txReplied r t) := by
  obtain ⟨hgate, hstage⟩ := (sio0Idle_iff s).mp hidle
  rw [txWrite_idle b s hgate hstage, h]

/-- A dead byte leaves the stage. -/
theorem txReplied_dead : txReplied 0x00 (txStored b s) = txDone s b 0x00 false .idle s.blk.sio0.sioMode := by
  obtain ⟨-, hstage⟩ := (sio0Idle_iff s).mp hidle
  rw [txReplied_txStored, hstage]

/-- The PAD mode byte (R131). -/
theorem txWrite_padMode :
    txWrite 0x01 s =
      .next
        (txDone (padCalled (.padStart (sio0Port s) 0) s) 0x01 (padAnswer s).reply ((padAnswer s).reply != 0x00)
          .waitingCommand .pad) := by
  rw [txWrite_modeByte 0x01 hidle (s0Idle_pad _), ← txReplied_padStart]
  rfl

/-- A mode byte without a mode (R133). -/
theorem txWrite_unknownMode (hpad : b ≠ 0x01) (hmemcard : b ≠ 0x81) :
    txWrite b s = .next (txDone s b 0x00 false .idle s.blk.sio0.sioMode) := by
  rw [txWrite_modeByte b hidle (s0Idle_unknown _ hpad hmemcard), txReplied_dead b hidle]

/-- The MEMCARD mode byte to an armed slot: counted, and dead air (R132, R270). -/
theorem txWrite_armed (harmed : 0 < (slotRec (sio0Port s) 0 s).autoEjectTicks) :
    txWrite 0x81 s =
      .next
        (setTicks (sio0Port s) 0 ((slotRec (sio0Port s) 0 s).autoEjectTicks - 1)
          (txDone s 0x81 0x00 false .idle s.blk.sio0.sioMode)) := by
  rw [txWrite_modeByte 0x81 hidle ((s0Idle_memcard _).trans (s0MemcardMode_armed harmed)),
    ← txReplied_dead 0x81 hidle]
  rfl

/-- The MEMCARD mode byte to a slot without a PS1-type card: dead air (R132). -/
theorem txWrite_noPs1Card (harmed : ¬0 < (slotRec (sio0Port s) 0 s).autoEjectTicks)
    (hcard : ((cardInput (sio0Port s) 0 s).present && (cardInput (sio0Port s) 0 s).isPSX) = false) :
    txWrite 0x81 s = .next (txDone s 0x81 0x00 false .idle s.blk.sio0.sioMode) := by
  rw [txWrite_modeByte 0x81 hidle ((s0Idle_memcard _).trans (s0MemcardMode_noPs1Card harmed hcard)),
    txReplied_dead 0x81 hidle]

/-- The MEMCARD mode byte to a slot that answers (R132). -/
theorem txWrite_accepted (harmed : ¬0 < (slotRec (sio0Port s) 0 s).autoEjectTicks)
    (hcard : ((cardInput (sio0Port s) 0 s).present && (cardInput (sio0Port s) 0 s).isPSX) = true) :
    txWrite 0x81 s = .next (txDone s 0x81 0x00 true .waitingCommand .memcard) := by
  rw [txWrite_modeByte 0x81 hidle ((s0Idle_memcard _).trans (s0MemcardMode_accepted harmed hcard)),
    txReplied_setStage]

end Idle

/-! ### Stage WAITING_COMMAND: the command byte (R134 to R138) -/

/-- A pad command (R134). -/
theorem txWrite_padCommand_known (h : sio0Expects .pad s = true) (hb : Codes.isPadCommand b = true) :
    txWrite b s =
      .next (txDone (padCalled (.padPoll b) s) b (padAnswer s).reply (!(padAnswer s).complete) .working .pad) := by
  obtain ⟨hgate, hstage, hmode⟩ := (sio0Expects_iff s .pad).mp h
  rw [txWrite_padCommand b s hgate hstage hmode, s0PadCommand, if_pos hb, ← txReplied_padPoll]
  rfl

/-- A byte that is no pad command (R135). -/
theorem txWrite_padCommand_unknown (h : sio0Expects .pad s = true) (hb : ¬Codes.isPadCommand b = true) :
    txWrite b s = .next (txViolated s b) := by
  obtain ⟨hgate, hstage, hmode⟩ := (sio0Expects_iff s .pad).mp h
  rw [txWrite_padCommand b s hgate hstage hmode, s0PadCommand, if_neg hb, txReplied_s0Unrecognised]

section Memcard

variable (h : sio0Expects .memcard s = true)
include h

theorem txWrite_memcardCommand_eq :
    txWrite b s = .next (txReplied (s0MemcardCommand b (txStored b s)).1 (s0MemcardCommand b (txStored b s)).2) := by
  obtain ⟨hgate, hstage, hmode⟩ := (sio0Expects_iff s .memcard).mp h
  exact txWrite_memcardCommand b s hgate hstage hmode

/-- A command with a layout is latched (R136). -/
theorem txWrite_latch (hb : b = 0x52 ∨ b = 0x53 ∨ b = 0x57) : txWrite b s = .next (ps1Latched s b) := by
  rw [txWrite_memcardCommand_eq b h, ← txReplied_s0Latch]
  rcases hb with rfl | rfl | rfl <;> rfl

/-- The pocketstation command is dead air (R137). -/
theorem txWrite_pocketstation : txWrite 0x58 s = .next (txDone s 0x58 0x00 false .idle .notSet) := by
  rw [txWrite_memcardCommand_eq 0x58 h, ← txReplied_setStage]
  rfl

/-- A byte that is no memory-card command (R138). -/
theorem txWrite_memcardUnknown (hb : b ∉ ([0x52, 0x53, 0x57, 0x58] : List Byte)) :
    txWrite b s = .next (txViolated s b) := by
  have hunknown : ps1CommandOf b = .unknown := (ps1CommandOf_unknown_iff b).mpr (by simpa using hb)
  rw [txWrite_memcardCommand_eq b h, s0MemcardCommand, hunknown]
  exact congrArg _ (txReplied_s0Unrecognised b s)

end Memcard

/-! ### Stage WORKING (R139), and the states outside the table of R130 (log 14) -/

/-- A body byte of a pad transaction (R139). -/
theorem txWrite_padWorking (hgate : txGated s = false) (hstage : s.blk.sio0.stage = .working)
    (hmode : s.blk.sio0.sioMode = .pad) :
    txWrite b s =
      .next (txDone (padCalled (.padPoll b) s) b (padAnswer s).reply (!(padAnswer s).complete) .working .pad) := by
  have hack := txReplied_ackIf b (padCalled (.padPoll b) s) (padAnswer s).reply (!(padAnswer s).complete)
  rw [show (padCalled (.padPoll b) s).blk.sio0 = s.blk.sio0 from rfl, hstage, hmode] at hack
  rw [txWrite_padBody b s hgate hstage hmode, s0PadPoll, padPollCall_padCalled, ← hack]
  rfl

/-- A byte in WORKING that has no handler to go to. -/
theorem txWrite_desync (hgate : txGated s = false) (hstage : s.blk.sio0.stage = .working)
    (hmode : s.blk.sio0.sioMode = .notSet ∨
      s.blk.sio0.sioMode = .memcard ∧ s.blk.sio0.command ∉ ([0x52, 0x53, 0x57] : List Byte)) :
    txWrite b s =
      .next (drawFree (txDone s b (s0Desync (txStored b s)).1 false .working s.blk.sio0.sioMode)) := by
  have hstored := txReplied_txStored b s (s0Desync (txStored b s)).1
  rw [hstage] at hstored
  rw [txWrite_step b s hgate, sio0Step_noHandler b (txStored b s) hstage hmode, ← hstored]
  rfl

end Write

end Sys2Proof.Machine

namespace Sys2Proof.Proofs

open Machine

/-- Settles O15: the PAD mode byte, and a byte that is no mode, alone and as a transaction. -/
theorem txModeByte : Obligations.TxModeByte := by
  intro s hidle
  refine ⟨⟨padAnswer s, padAnswers_padAnswer s, txWrite_padMode hidle⟩, fun m hpad hmemcard => ?_⟩
  have hwrite := txWrite_unknownMode m hidle hpad hmemcard
  exact ⟨hwrite, (andThen_pure _).trans hwrite⟩

/-- Settles O16: the three arms of R132 in their order. -/
theorem txMemcardModeByte : Obligations.TxMemcardModeByte := by
  intro s hidle
  split
  · next harmed => exact txWrite_armed hidle harmed
  · next harmed =>
    split
    · next hcard => exact txWrite_noPs1Card hidle harmed hcard
    · next hcard => exact txWrite_accepted hidle harmed (by simpa using hcard)

/-- Settles O17: a command, a violation, a body byte. -/
theorem txPadByte : Obligations.TxPadByte := by
  intro b s
  refine ⟨fun h hb => ?command, fun h hb => ?violation, fun hgate hstage hmode => ?body⟩
  case command =>
    exact ⟨padAnswer s, padAnswers_padAnswer s, txWrite_padCommand_known b h ((isPadCommand_iff b).mpr hb)⟩
  case violation => exact txWrite_padCommand_unknown b h fun hpad => hb ((isPadCommand_iff b).mp hpad)
  case body => exact ⟨padAnswer s, padAnswers_padAnswer s, txWrite_padWorking b hgate hstage hmode⟩

/-- Settles O18: a latched command, dead air, a violation. -/
theorem txMemcardCommand : Obligations.TxMemcardCommand := by
  intro b s h
  split
  · next hb => exact txWrite_latch b h hb
  · next hb =>
    split
    · next hb' =>
      subst hb'
      exact txWrite_pocketstation h
    · next hb' =>
      refine txWrite_memcardUnknown b h ?_
      simp only [List.mem_cons, List.not_mem_nil, or_false, not_or] at hb ⊢
      exact ⟨hb.1, hb.2.1, hb.2.2, hb'⟩

/-- Settles O19: without a mode a violation, without a handler the dead byte of `s0Desync`. -/
theorem txDesync : Obligations.TxDesync := by
  intro b s hgate
  refine ⟨fun hstage hmode => ?violation, fun hstage hmode => ?dead⟩
  case violation =>
    exact (txWrite_noMode b s hgate hstage hmode).trans (congrArg _ (txReplied_s0Unrecognised b s))
  case dead => exact ⟨_, s0Desync_reply (txStored b s), txWrite_desync b hgate hstage hmode⟩

end Sys2Proof.Proofs
end

section
/-! What a claim about every TX_DATA write, every transaction or every frame needs of the two paths, and obligations O11
and O39. -/

namespace Sys2Proof.Machine

/-- TX_DATA writes and transactions answer in every state and keep soundness. -/
theorem WritesTxData.answers_sound {i : Instr} (hi : WritesTxData i) (s : State) :
    ∃ t, exec i s = .next t ∧ (State.sound s = true → State.sound t = true) := by
  obtain ⟨n, t, hexec, hrel⟩ := hi.answers s
  exact ⟨t, hexec, hrel.opRel.keeps_sound⟩

/-- What they did where they answered. -/
theorem WritesTxData.txRel {i : Instr} {s t : State} (hi : WritesTxData i) (h : exec i s = .next t) :
    ∃ n, TxRel n s t := by
  obtain ⟨n, u, hexec, hrel⟩ := hi.answers s
  cases hexec.symm.trans h
  exact ⟨n, hrel⟩

/-- What DATA_IN writes and frames did where they answered. -/
theorem WritesDataIn.dataRel {i : Instr} {s t : State} (hi : WritesDataIn i) (h : exec i s = .next t) :
    DataRel s t := by
  have hsends := hi.sends s
  rwa [h] at hsends

end Sys2Proof.Machine

namespace Sys2Proof.Proofs

open Machine

/-- Settles O11: a run of TX_DATA writes answers, and `TxRel` keeps the invariant. -/
theorem txAlwaysAnswers : Obligations.TxAlwaysAnswers :=
  fun s =>
    ⟨fun b => WritesTxData.answers_sound (.inl ⟨b, rfl⟩) s,
      fun _ bytes hi => WritesTxData.answers_sound (.inr ⟨bytes, hi⟩) s⟩

/-- Settles O39: the frame of `TxRel` and the frame of `DataRel`. -/
theorem pathsAreSeparate : Obligations.PathsAreSeparate := by
  intro i s t hexec
  refine ⟨fun hi => ?sio0, fun hi => ?sio2⟩
  case sio0 =>
    obtain ⟨n, hrel⟩ := WritesTxData.txRel hi hexec
    exact ⟨hrel.sio2, hrel.fifoIn, hrel.fifoOut⟩
  case sio2 =>
    have hrel := WritesDataIn.dataRel hi hexec
    exact ⟨hrel.sio0, hrel.stat⟩

end Sys2Proof.Proofs
end

section
/-! The countdown of an armed slot (R270 to R273), and obligation O35. -/

namespace Sys2Proof.Machine

/-! ### STAT after writes of TX_DATA -/

/-- STAT after writes of TX_DATA, with an acknowledge among them or not (R90). -/
def statWritten (stat : Word) (ack : Bool) : Word := stat ||| 0x00000007 ||| (if ack then 0x00000080 else 0)

theorem txDone_stat (s : State) (b reply : Byte) (ack : Bool) (stage : Stage) (mode : SioMode) :
    (txDone s b reply ack stage mode).blk.sio0.stat = statWritten s.blk.sio0.stat ack := rfl

/-- One write more. -/
theorem statWritten_statWritten (stat : Word) (ack ack' : Bool) :
    statWritten (statWritten stat ack) ack' = statWritten stat (ack || ack') := by
  have hack : ((if ack then 0x00000080 else 0) ||| (if ack' then 0x00000080 else 0) : Word) =
      if ack || ack' then 0x00000080 else 0 := by
    cases ack <;> cases ack' <;> rfl
  have hregroup (x y : Word) : stat ||| 0x00000007 ||| x ||| 0x00000007 ||| y =
      stat ||| (0x00000007 ||| 0x00000007) ||| (x ||| y) := by
    ac_rfl
  rw [statWritten, statWritten, statWritten, hregroup, BitVec.or_self, hack]

/-- ACK is set by an acknowledge and else as before. -/
theorem getLsbD_statWritten_seven (stat : Word) (ack : Bool) :
    (statWritten stat ack).getLsbD 7 = (stat.getLsbD 7 || ack) := by
  cases ack <;> simp [statWritten]

/-! ### The countdown -/

theorem runAll_append_singleton (is : List Instr) (i : Instr) (s : State) :
    runAll (is ++ [i]) s = andThen (runAll is s) (exec i) := by
  induction is generalizing s with
  | nil => exact andThen_pure (exec i s)
  | cons j is ih =>
    rw [List.cons_append, runAll, runAll]
    cases hj : exec j s with
    | next t => exact ih t
    | fault f => rfl
    | refused why => rfl

/-- After AE_SET in `s` and n accesses to the armed slot: n counted down, n requests made, and nothing acknowledged. -/
structure CountedDown (s : State) (n : Nat) (v : State) : Prop where
  idle : sio0Idle v = true
  port : sio0Port v = sio0Port s
  card : v.inputs.card = s.inputs.card
  ack : v.blk.sio0.stat.getLsbD 7 = s.blk.sio0.stat.getLsbD 7
  ticks : (slotRec (sio0Port s) 0 v).autoEjectTicks = s.params.autoEjectTicks - n
  events : v.events = s.events ++ List.replicate n (.irq .sio0)
  cards : v.cards = s.cards

section Countdown

variable {s v : State} {n : Nat}

/-- AE_SET itself (R273). -/
theorem countedDown_zero (hidle : sio0Idle s = true) :
    CountedDown s 0 (setTicks (sio0Port s) 0 s.params.autoEjectTicks s) where
  idle := hidle
  port := rfl
  card := rfl
  ack := rfl
  ticks := by rw [setTicks, slotRec_setSlotRec_self, Nat.sub_zero]
  events := (List.append_nil _).symm
  cards := rfl

/-- One access more while the slot is armed: dead air (R132). -/
theorem CountedDown.access (h : CountedDown s n v) (hn : n < s.params.autoEjectTicks) :
    ∃ v', exec (.wr8Sio0TxData 0x81) v = .next v' ∧ CountedDown s (n + 1) v' ∧ v'.blk.sio0.rxData = 0x00
      ∧ v'.blk.sio0.stage = .idle := by
  have harmed : 0 < (slotRec (sio0Port v) 0 v).autoEjectTicks := by
    rw [h.port, h.ticks]
    exact Nat.sub_pos_of_lt hn
  obtain ⟨hgate, -⟩ := (sio0Idle_iff v).mp h.idle
  refine ⟨_, txWrite_armed h.idle harmed, ?_, rfl, rfl⟩
  exact
  { idle := (sio0Idle_iff _).mpr ⟨hgate, rfl⟩
    port := h.port
    card := h.card
    ack := by
      rw [setTicks, setSlotRec_sio0, txDone_stat, getLsbD_statWritten_seven, Bool.or_false, h.ack]
    ticks := by
      rw [setTicks, ← h.port, slotRec_setSlotRec_self, h.port, h.ticks, Nat.sub_sub]
    events := by
      change v.events ++ [Event.irq .sio0] = _
      rw [h.events, List.append_assoc, ← List.replicate_succ']
    cards := h.cards }

/-- A run of accesses, as many as there are ticks or fewer. -/
theorem countedDown_run {u : State} (hu : CountedDown s 0 u) (n : Nat) (hn : n ≤ s.params.autoEjectTicks) :
    ∃ v, runAll (List.replicate n (.wr8Sio0TxData 0x81)) u = .next v ∧ CountedDown s n v := by
  induction n with
  | zero => exact ⟨u, rfl, hu⟩
  | succ n ih =>
    obtain ⟨v, hrun, hv⟩ := ih (Nat.le_of_succ_le hn)
    obtain ⟨v', hexec, hv', -⟩ := hv.access hn
    exact ⟨v', by rw [List.replicate_succ', runAll_append_singleton, hrun, andThen_next, hexec], hv'⟩

/-- The access after the last tick is accepted, with the same card in the slot. -/
theorem CountedDown.accepted (h : CountedDown s s.params.autoEjectTicks v)
    (hcard : ((cardInput (sio0Port s) 0 s).present && (cardInput (sio0Port s) 0 s).isPSX) = true) :
    exec (.wr8Sio0TxData 0x81) v = .next (txDone v 0x81 0x00 true .waitingCommand .memcard) := by
  have hticks : ¬0 < (slotRec (sio0Port v) 0 v).autoEjectTicks := by
    rw [h.port, h.ticks, Nat.sub_self]
    exact Nat.lt_irrefl 0
  have hinput : cardInput (sio0Port v) 0 v = cardInput (sio0Port s) 0 s := by
    rw [h.port, cardInput, cardInput, h.card]
  exact txWrite_accepted h.idle hticks (by rwa [hinput])

end Countdown

end Sys2Proof.Machine

namespace Sys2Proof.Proofs

open Machine

/-- Settles O35: AE_SET loads the count, each access takes one off it, and the one after the last finds it at 0. -/
theorem autoEjectCountsItsAccesses : Obligations.AutoEjectCountsItsAccesses := by
  intro s hidle hcard
  have hzero := countedDown_zero hidle
  obtain ⟨v, hrun, hv⟩ := countedDown_run hzero _ (Nat.le_refl _)
  refine ⟨_, v, _, rfl, hrun, hv.accepted hcard, fun n hn => ?dead, hv.events, hv.cards, rfl, ?ack⟩
  case dead =>
    obtain ⟨x, hx, hxDown⟩ := countedDown_run hzero n (Nat.le_of_lt hn)
    obtain ⟨v', hexec, hv', hreply, hstage⟩ := hxDown.access hn
    refine ⟨v', ?_, hreply, hstage, hv'.ack, hv'.ticks⟩
    rw [List.replicate_succ', runAll_append_singleton, hx, andThen_next, hexec]
  case ack => rw [txDone_stat, getLsbD_statWritten_seven, Bool.or_true]

end Sys2Proof.Proofs
end

section
/-! The transactions on SIO0 that end with their command byte and the pad transaction, and obligations O24 and O25. -/

namespace Sys2Proof.Machine

variable {s t : State}

/-! ### A transaction as its writes -/

theorem sendTransaction_cons {b : Byte} (h : txWrite b s = .next t) (bytes : List Byte) :
    sendTransaction (b :: bytes) s = sendTransaction bytes t := by
  rw [sendTransaction, h, andThen_next]

theorem sendTransaction_singleton (b : Byte) (s : State) : sendTransaction [b] s = txWrite b s :=
  andThen_pure (txWrite b s)

theorem sendTransaction_append_singleton (bytes : List Byte) (b : Byte) (h : sendTransaction bytes s = .next t) :
    sendTransaction (bytes ++ [b]) s = txWrite b t := by
  rw [sendTransaction_eq_runAll] at h ⊢
  rw [List.map_append, List.map_singleton, runAll_append_singleton, h, andThen_next]
  rfl

/-- A write that led to WAITING_COMMAND. -/
theorem sio0Expects_txDone (hgate : txGated s = false) (b reply : Byte) (ack : Bool) (mode : SioMode) :
    sio0Expects mode (txDone s b reply ack .waitingCommand mode) = true :=
  (sio0Expects_iff _ mode).mpr ⟨hgate, rfl, rfl⟩

theorem ps1Answers_iff :
    ps1Answers s = true ↔
      ¬0 < (slotRec (sio0Port s) 0 s).autoEjectTicks
        ∧ ((cardInput (sio0Port s) 0 s).present && (cardInput (sio0Port s) 0 s).isPSX) = true := by
  simp [ps1Answers, and_assoc]

/-- The mode byte of a memory-card transaction on a slot that answers, before the rest of it. -/
theorem sendTransaction_memcard (hidle : sio0Idle s = true) (hanswers : ps1Answers s = true) (bytes : List Byte) :
    sendTransaction (0x81 :: bytes) s =
        sendTransaction bytes (txDone s 0x81 0x00 true .waitingCommand .memcard)
      ∧ sio0Expects .memcard (txDone s 0x81 0x00 true .waitingCommand .memcard) = true := by
  obtain ⟨hgate, -⟩ := (sio0Idle_iff s).mp hidle
  obtain ⟨harmed, hcard⟩ := ps1Answers_iff.mp hanswers
  exact ⟨sendTransaction_cons (txWrite_accepted hidle harmed hcard) bytes, sio0Expects_txDone hgate ..⟩

/-- The mode byte of a pad transaction, before the rest of it. -/
theorem sendTransaction_pad (hidle : sio0Idle s = true) (bytes : List Byte) :
    ∃ u, u = txDone (padCalled (.padStart (sio0Port s) 0) s) 0x01 (padAnswer s).reply ((padAnswer s).reply != 0x00)
          .waitingCommand .pad
      ∧ sendTransaction (0x01 :: bytes) s = sendTransaction bytes u ∧ sio0Expects .pad u = true := by
  obtain ⟨hgate, -⟩ := (sio0Idle_iff s).mp hidle
  exact ⟨_, rfl, sendTransaction_cons (txWrite_padMode hidle) bytes,
    sio0Expects_txDone (s := padCalled (.padStart (sio0Port s) 0) s) hgate ..⟩

/-! ### The pad's answers in a run of calls -/

/-- After the calls made so far, the pad's next answer is the listed one where there is one (R8). -/
theorem PadAnswers.append {answers : List PadAnswer} (h : PadAnswers s answers)
    (hpad : t.inputs.pad = s.inputs.pad.drop answers.length) : PadAnswers s (answers ++ [padAnswer t]) := by
  intro k a hk ha
  rw [List.length_append, List.length_singleton] at hk
  rcases Nat.lt_or_eq_of_le (Nat.le_of_lt_succ hk) with hlt | rfl
  · rw [List.getElem?_append_left hlt]
    exact h k a hlt ha
  · have hnext := padAnswers_padAnswer t 0 a Nat.one_pos (by rw [hpad, List.getElem?_drop, Nat.add_zero, ha])
    rw [List.getElem?_append_right (Nat.le_refl _), Nat.sub_self, hnext]

/-- One call more of a run. -/
theorem padCalled_padCalledAll (calls : List Event) (e : Event) (s : State) :
    padCalled e (padCalledAll calls s) = padCalledAll (calls ++ [e]) s := by
  simp only [padCalled, padCalledAll, List.tail_drop, List.length_drop, List.length_append, List.length_singleton,
    List.append_assoc]
  congr 1
  omega

/-! ### The pad transaction (R131, R134, R139) -/

/-- The state after a run of calls to the pad, with SIO0 and the events as the writes that made them leave them. -/
def padWritten (s : State) (calls : List Event) (r : Sio0) (events : List Event) : State :=
  { padCalledAll calls s with blk.sio0 := r, events := events }

@[simp] theorem padWritten_nil (s : State) : padWritten s [] s.blk.sio0 s.events = s := by
  simp [padWritten, padCalledAll]

/-- One call more, and the end of the write that made it. -/
theorem txDone_padWritten (s : State) (calls : List Event) (r : Sio0) (events : List Event) (e : Event) (b reply : Byte)
    (ack : Bool) (stage : Stage) (mode : SioMode) :
    txDone (padCalled e (padWritten s calls r events)) b reply ack stage mode =
      padWritten s (calls ++ [e])
        { r with stat := statWritten r.stat ack, txData := b, rxData := reply, stage := stage, sioMode := mode }
        (events ++ [e, .irq .sio0]) := by
  have hevents : events ++ [e, .irq .sio0] = events ++ [e] ++ [.irq .sio0] := by simp
  rw [padWritten, padWritten, ← padCalled_padCalledAll, hevents]
  rfl

/-- The state a pad transaction leaves after its mode byte, the command byte `c` and the bytes `rest`, when the pad
answered `a` and then `answers`. -/
def padExchanged (s : State) (a : PadAnswer) (answers : List PadAnswer) (c : Byte) (rest : List Byte) : State :=
  padWritten s (.padStart (sio0Port s) 0 :: (c :: rest).map Event.padPoll)
    { s.blk.sio0 with
      stat := statWritten s.blk.sio0.stat (a.reply != 0x00 || answers.any (fun x => !x.complete))
      txData := rest.getLastD c
      rxData := ((answers.map PadAnswer.reply).getLast?).getD 0x00
      stage := .working
      sioMode := .pad }
    (s.events ++ [.padStart (sio0Port s) 0, .irq .sio0]
      ++ (c :: rest).flatMap (fun b => [.padPoll b, .irq .sio0]))

/-- The mode byte and the command byte. -/
theorem sendTransaction_padCommand (hidle : sio0Idle s = true) {c : Byte} (hc : Codes.isPadCommand c = true) :
    ∃ x, PadAnswers s [padAnswer s, x]
      ∧ sendTransaction [0x01, c] s = .next (padExchanged s (padAnswer s) [x] c []) := by
  obtain ⟨u, hu, hsend, hexpects⟩ := sendTransaction_pad hidle [c]
  have hpad : u.inputs.pad = s.inputs.pad.drop [padAnswer s].length := by
    rw [hu, List.length_singleton, List.drop_one]
    rfl
  refine ⟨padAnswer u, (padAnswers_padAnswer s).append hpad, ?_⟩
  have hmode := txDone_padWritten s [] s.blk.sio0 s.events (.padStart (sio0Port s) 0) 0x01 (padAnswer s).reply
    ((padAnswer s).reply != 0x00) .waitingCommand .pad
  rw [padWritten_nil, ← hu] at hmode
  rw [hsend, sendTransaction_singleton, txWrite_padCommand_known c hexpects hc]
  generalize padAnswer u = x
  rw [hmode, txDone_padWritten, statWritten_statWritten]
  simp [padExchanged]

/-- One body byte more. -/
theorem txWrite_padExchanged (hgate : txGated s = false) {a : PadAnswer} {answers : List PadAnswer} (c : Byte)
    (rest : List Byte) (b : Byte) (hn : answers.length = 1 + rest.length) (h : PadAnswers s (a :: answers)) :
    ∃ x, PadAnswers s (a :: (answers ++ [x]))
      ∧ txWrite b (padExchanged s a answers c rest) = .next (padExchanged s a (answers ++ [x]) c (rest ++ [b])) := by
  have hpad : (padExchanged s a answers c rest).inputs.pad = s.inputs.pad.drop (a :: answers).length := by
    simp [padExchanged, padWritten, padCalledAll, hn, Nat.add_comm]
  refine ⟨padAnswer (padExchanged s a answers c rest), h.append hpad, ?_⟩
  have hwrite := txWrite_padWorking (s := padExchanged s a answers c rest) b hgate rfl rfl
  generalize padAnswer (padExchanged s a answers c rest) = x at hwrite ⊢
  rw [hwrite, padExchanged, txDone_padWritten, statWritten_statWritten]
  simp [padExchanged, Bool.or_assoc]

/-- A pad transaction of any length. -/
theorem sendTransaction_padBody (hidle : sio0Idle s = true) {c : Byte} (hc : Codes.isPadCommand c = true)
    (rest : List Byte) :
    ∃ answers, answers.length = 1 + rest.length ∧ PadAnswers s (padAnswer s :: answers)
      ∧ sendTransaction (0x01 :: c :: rest) s = .next (padExchanged s (padAnswer s) answers c rest) := by
  obtain ⟨hgate, -⟩ := (sio0Idle_iff s).mp hidle
  induction rest using List.reverseRecOn with
  | nil =>
    obtain ⟨x, hx, hsend⟩ := sendTransaction_padCommand hidle hc
    exact ⟨[x], rfl, hx, hsend⟩
  | append_singleton rest b ih =>
    obtain ⟨answers, hn, hanswers, hsend⟩ := ih
    obtain ⟨x, hx, hwrite⟩ := txWrite_padExchanged hgate c rest b hn hanswers
    refine ⟨answers ++ [x], by simp [hn, Nat.add_assoc], hx, ?_⟩
    rw [← hwrite]
    exact sendTransaction_append_singleton (0x01 :: c :: rest) b hsend

end Sys2Proof.Machine

namespace Sys2Proof.Proofs

open Machine

/-- Settles O24: the mode byte, then the command byte that ends the transaction. -/
theorem shortTransactions : Obligations.ShortTransactions := by
  intro s hidle
  refine ⟨fun c hc => ?padUnknown, fun hanswers => ?pocketstation, fun c hanswers hc => ?memcardUnknown⟩
  case padUnknown =>
    obtain ⟨u, hu, hsend, hexpects⟩ := sendTransaction_pad hidle [c]
    have hwrite := txWrite_padCommand_unknown c hexpects fun hpad => hc ((isPadCommand_iff c).mp hpad)
    rw [hu] at hwrite hsend
    exact ⟨padAnswer s, padAnswers_padAnswer s, hsend.trans ((sendTransaction_singleton c _).trans hwrite)⟩
  case pocketstation =>
    obtain ⟨hsend, hexpects⟩ := sendTransaction_memcard hidle hanswers [0x58]
    exact hsend.trans ((sendTransaction_singleton 0x58 _).trans (txWrite_pocketstation hexpects))
  case memcardUnknown =>
    obtain ⟨hsend, hexpects⟩ := sendTransaction_memcard hidle hanswers [c]
    exact hsend.trans ((sendTransaction_singleton c _).trans (txWrite_memcardUnknown c hexpects hc))

/-- Settles O25: the state after the bytes sent so far is `padExchanged`, by induction from the last byte. -/
theorem padTransaction : Obligations.PadTransaction := by
  intro c rest s hidle
  obtain ⟨answers, hn, hanswers, hsend⟩ :=
    sendTransaction_padBody hidle (isPadCommand_padCommandByte c).1 rest
  exact ⟨padAnswer s, answers, hn, hanswers, hsend⟩

end Sys2Proof.Proofs
end

section
/-! The PS1 transactions on SIO0: what any of them leaves beside its handler's work, and obligations O26 and O27. -/

namespace Sys2Proof.Machine

/-! ### The handlers leave the inputs -/

section Inputs

variable (p : Port) (q : Slot) (b : Byte) (s : State)

theorem ps1Read_inputs : (ps1Read p q b s).2.inputs = s.inputs := by
  unfold ps1Read
  dsimp only
  cases readPosition s.blk.ps1.cursor with
  | data i =>
    dsimp only
    unfold ps1ReadData
    split <;> rfl
  | _ => rfl

theorem ps1Write_inputs : (ps1Write p q b s).2.inputs = s.inputs := by
  unfold ps1Write
  dsimp only
  cases writePosition s.blk.ps1.cursor with
  | status =>
    dsimp only [ps1WriteCommit]
    split_ifs
    · rfl
    · rfl
    · rw [cardSave_eq]
      rfl
  | _ => rfl

end Inputs

/-! ### A body of writes to a handler -/

section Body

variable {handler : Byte → State → Byte × State}

theorem ps1Run_writing_inputs (hinputs : ∀ b s, (handler b s).2.inputs = s.inputs) (l : List Byte) (s : State) :
    (ps1Run (writing handler) l s).2.inputs = s.inputs := by
  induction l generalizing s with
  | nil => rfl
  | cons b l ih => exact (ih _).trans (hinputs b (txStored b s))

/-- Stage, mode and command stay. -/
theorem ps1Run_writing_sio0 (hh : ∀ b s, HandlerRel s (handler b s).2) (l : List Byte) (s : State) :
    (ps1Run (writing handler) l s).2.blk.sio0.stage = s.blk.sio0.stage
      ∧ (ps1Run (writing handler) l s).2.blk.sio0.sioMode = s.blk.sio0.sioMode
      ∧ (ps1Run (writing handler) l s).2.blk.sio0.command = s.blk.sio0.command := by
  induction l generalizing s with
  | nil => exact ⟨rfl, rfl, rfl⟩
  | cons b l ih =>
    obtain ⟨hstage, hmode, hcommand⟩ := ih (writing handler b s).2
    have hsio0 := (hh b (txStored b s)).sio0
    exact
      ⟨hstage.trans (congrArg Sio0.stage hsio0 :), hmode.trans (congrArg Sio0.sioMode hsio0 :),
        hcommand.trans (congrArg Sio0.command hsio0 :)⟩

/-- RX_DATA holds the last reply. -/
theorem ps1Run_writing_rxData (l : List Byte) (s : State) :
    (ps1Run (writing handler) l s).2.blk.sio0.rxData =
      ((ps1Run (writing handler) l s).1.getLast?).getD s.blk.sio0.rxData := by
  induction l using List.reverseRecOn with
  | nil => rfl
  | append_singleton l b _ =>
    rw [ps1Run_append, List.getLast?_concat]
    rfl

end Body

/-! ### A whole transaction -/

/-- The state in which the body of a PS1 transaction begins: the mode byte accepted, the command latched (R132,
R136). -/
def ps1Started (s : State) (c : Byte) : State :=
  ps1Latched (txDone s 0x81 0x00 true .waitingCommand .memcard) c

/-- What a PS1 transaction with n body bytes leaves, whatever its handler. -/
structure TransactionLeft (c : Byte) (n : Nat) (s t : State) : Prop where
  tx : TxRel (n + 2) s t
  inputs : t.inputs = s.inputs
  stage : t.blk.sio0.stage = .working
  mode : t.blk.sio0.sioMode = .memcard
  command : t.blk.sio0.command = c

/-- One request for each byte (R290). -/
theorem TransactionLeft.irqCount {c : Byte} {n : Nat} {s t : State} (h : TransactionLeft c n s t) :
    irqCount .sio0 t = irqCount .sio0 s + 2 + n := by
  rw [h.tx.irqs0, Nat.add_comm n 2, Nat.add_assoc]

/-- The parts of the state that are not written. -/
theorem TransactionLeft.frame {c : Byte} {n : Nat} {s t : State} (h : TransactionLeft c n s t) :
    t =
      { s with
        blk.sio0 := t.blk.sio0
        blk.ps1 := t.blk.ps1
        blk.mcd := t.blk.mcd
        cards := t.cards
        events := t.events
        freeCount := t.freeCount } := by
  simp only [← h.tx.sio2, ← h.tx.fifoIn, ← h.tx.fifoOut, ← h.tx.params, ← h.tx.pending, ← h.inputs]

/-- A transaction of a command with a layout is the run of its handler from `ps1Started`. -/
theorem sendTransaction_ps1 {s : State} (hidle : sio0Idle s = true) (hanswers : ps1Answers s = true) {c : Byte}
    (hc : c = 0x52 ∨ c = 0x53 ∨ c = 0x57) {handler : Byte → State → Byte × State}
    (hbody : ∀ b t, t.blk.sio0.command = c → sio0Port t = sio0Port s → s0MemcardBody b t = handler b t)
    (hh : ∀ b t, HandlerRel t (handler b t).2) (hinputs : ∀ b t, (handler b t).2.inputs = t.inputs)
    (rest : List Byte) :
    sendTransaction (0x81 :: c :: rest) s = .next (ps1Run (writing handler) rest (ps1Started s c)).2
      ∧ TransactionLeft c rest.length s (ps1Run (writing handler) rest (ps1Started s c)).2 := by
  obtain ⟨hgate, -⟩ := (sio0Idle_iff s).mp hidle
  obtain ⟨hmodeByte, hexpects⟩ := sendTransaction_memcard hidle hanswers (c :: rest)
  have hcommandByte := sendTransaction_cons (txWrite_latch c hexpects hc) rest
  have hrun : sendTransaction rest (ps1Started s c) = .next (ps1Run (writing handler) rest (ps1Started s c)).2 :=
    sendTransaction_body (sio0Port s) c handler hbody hh rest (ps1Started s c) hgate rfl rfl rfl rfl
  have hsend := (hmodeByte.trans hcommandByte).trans hrun
  refine ⟨hsend, ?_⟩
  obtain ⟨hstage, hmode, hcommand⟩ := ps1Run_writing_sio0 hh rest (ps1Started s c)
  obtain ⟨t, ht, htx⟩ := sendTransaction_cases (0x81 :: c :: rest) s
  cases ht.symm.trans hsend
  rw [hgate, if_neg Bool.false_ne_true] at htx
  exact
  { tx := htx
    inputs := ps1Run_writing_inputs hinputs rest (ps1Started s c)
    stage := hstage
    mode := hmode
    command := hcommand }

/-- The calls that read the card are those of the body. -/
theorem fetches_ps1Started (p : Port) (q : Slot) (addr : Word) (s : State) (c : Byte) :
    fetches p q addr (ps1Started s c) = fetches p q addr s := by
  change (s.events ++ [Event.irq .sio0] ++ [Event.irq .sio0]).count _ = s.events.count _
  simp

/-! ### Read -/

/-- The layout of Read ends in 0x47 (R75). -/
theorem getLast?_readLayout (p : Port) (q : Slot) (s : State) (l : List Byte) :
    (readLayout p q s l).getLast? = some 0x47 := by
  rw [readLayout, List.getLast?_append]
  rfl

section Read

variable {s : State} (hidle : sio0Idle s = true) (hanswers : ps1Answers s = true) (rest : List Byte)
include hidle hanswers

/-- A Read of any length: what every transaction leaves, the invariant of the layout, and the last reply (R244). -/
theorem exec_s0Ps1Read :
    ∃ t, exec (.s0Ps1Read rest) s = .next t ∧ TransactionLeft 0x52 rest.length s t
      ∧ ReadAt (sio0Port s) 0 s rest t ∧ (rest.length = 138 → t.blk.sio0.rxData = 0x47) := by
  have hcode : ps1CommandOf 0x52 = .read := rfl
  obtain ⟨hsend, hleft⟩ := sendTransaction_ps1 (handler := ps1Read (sio0Port s) 0) hidle hanswers (.inl rfl)
    (fun b t hc hp => by simp only [s0MemcardBody, hc, hcode, hp]) (fun b t => .ps1Read _ _ b) (ps1Read_inputs _ _) rest
  have hstart : ReadAt (sio0Port s) 0 s [] (ps1Started s 0x52) :=
    .start _ _ s _ rfl rfl rfl (fun addr => fetches_ps1Started _ _ addr s _) rfl rfl rfl
  obtain ⟨hread, hreplies⟩ := ps1Run_read (sio0Port s) 0 s (writing (ps1Read (sio0Port s) 0))
    (fun _ b _ h => h.writing _ _ s b) rest _ hstart
  refine ⟨_, hsend, hleft, hread, fun hn => ?_⟩
  rw [hn, List.take_of_length_le (by simp [hn]), List.take_of_length_le (by simp [readLayout])] at hreplies
  rw [ps1Run_writing_rxData, hreplies, getLast?_readLayout, Option.getD_some]

end Read

/-! ### Write -/

/-- The layout of Write ends in the status (R258). -/
theorem getLast?_writeLayout (s : State) (l : List Byte) : (writeLayout s l).getLast? = some (writeStatus s l) := by
  rw [writeLayout, List.getLast?_append]
  rfl

theorem writeSaved_iff (s : State) (l : List Byte) :
    writeSaved s l = true ↔ 136 ≤ l.length ∧ writeStatus s l = 0x47 := by
  simp [writeSaved]

section Write

variable {s : State} (hidle : sio0Idle s = true) (hanswers : ps1Answers s = true) (rest : List Byte)
include hidle hanswers

/-- A Write of any length: what every transaction leaves, the invariant of the layout, and the last reply (R252). -/
theorem exec_s0Ps1Write :
    ∃ t, exec (.s0Ps1Write rest) s = .next t ∧ TransactionLeft 0x57 rest.length s t
      ∧ WriteAt (sio0Port s) 0 s rest t ∧ (rest.length = 136 → t.blk.sio0.rxData = writeStatus s rest) := by
  have hcode : ps1CommandOf 0x57 = .write := rfl
  obtain ⟨hsend, hleft⟩ := sendTransaction_ps1 (handler := ps1Write (sio0Port s) 0) hidle hanswers (.inr (.inr rfl))
    (fun b t hc hp => by simp only [s0MemcardBody, hc, hcode, hp]) (fun b t => .ps1Write _ _ b) (ps1Write_inputs _ _)
    rest
  have hstart : WriteAt (sio0Port s) 0 s [] (ps1Started s 0x57) := .start _ _ s _ rfl rfl rfl rfl rfl
  obtain ⟨hwrite, hreplies⟩ := ps1Run_write (sio0Port s) 0 s (writing (ps1Write (sio0Port s) 0))
    (fun _ b _ h => h.writing _ _ s b) rest _ hstart
  refine ⟨_, hsend, hleft, hwrite, fun hn => ?_⟩
  rw [hn, List.take_of_length_le (by simp [hn]), List.take_of_length_le (by simp [writeLayout])] at hreplies
  rw [ps1Run_writing_rxData, hreplies, getLast?_writeLayout, Option.getD_some]

end Write

section WriteAt

variable {p : Port} {q : Slot} {s t : State} {l : List Byte} (h : WriteAt p q s l t)
include h

/-- A Write whose bytes were saved (R258). -/
theorem WriteAt.saved (hwf : State.wf s = true) (hs : writeSaved s l = true) :
    Saved p q (BitVec.ofNat 32 (128 * writeSector l)) (writeData l) s t := by
  obtain ⟨-, -, hcards, -⟩ := (State.wf_iff s).mp hwf
  have hn : (writeData l).length ≤ 2 ^ 32 := by
    simp only [writeData, List.length_take]
    omega
  refine (cardSave_saved s p q _ _ hcards hn).congr rfl rfl ?_
  rw [h.cards, writeCards, if_pos hs]

theorem WriteAt.cards_of_not_saved (hs : ¬writeSaved s l = true) : t.cards = s.cards := by
  rw [h.cards, writeCards, if_neg hs]

theorem WriteAt.slotRec_other (p' : Port) (q' : Slot) (hpq : ¬(p' = p ∧ q' = q)) :
    slotRec p' q' t = slotRec p' q' s := by
  rw [h.slot, if_neg hpq]

theorem WriteAt.slotRec_addressed : slotRec p q t = writeRecord s l (slotRec p q s) := by
  rw [h.slot, if_pos ⟨rfl, rfl⟩]

end WriteAt

end Sys2Proof.Machine

namespace Sys2Proof.Proofs

open Machine

/-- Settles O26: the run of the Read handler from the latched command, whose invariant is `ReadAt`. -/
theorem ps1ReadTransaction : Obligations.Ps1ReadTransaction := by
  intro rest s hidle hanswers p msb lsb addr bytes
  obtain ⟨t, hexec, hleft, hread, hreply⟩ := exec_s0Ps1Read hidle hanswers rest
  have hframe := hleft.frame
  rw [hread.cards] at hframe
  refine ⟨t, hexec, hframe, hleft.stage, hleft.mode, hleft.command, hread.cursor, hleft.irqCount, hread.slot,
    fun hn => ⟨hreply hn, hread.buf (by omega), ?sum, ?fetched⟩⟩
  case sum =>
    rw [hread.sum (by omega), List.take_of_length_le (by simp [hn])]
    rfl
  case fetched =>
    have hfetched := hread.fetched addr
    rwa [if_pos ⟨by omega, rfl⟩] at hfetched

/-- Settles O27: the run of the Write handler from the latched command, whose invariant is `WriteAt`. -/
theorem ps1WriteTransaction : Obligations.Ps1WriteTransaction := by
  intro rest s hwf hidle hanswers p msb lsb sector data status saved
  obtain ⟨t, hexec, hleft, hwrite, hreply⟩ := exec_s0Ps1Write hidle hanswers rest
  have hsaved : writeSaved s rest = true ↔ saved := writeSaved_iff s rest
  have hrecord := hwrite.slotRec_addressed
  refine ⟨t, hexec, hleft.frame, hleft.stage, hleft.mode, hleft.command, hwrite.cursor, hleft.irqCount, hreply,
    fun hs => hwrite.saved hwf (hsaved.mpr hs), fun hs => hwrite.cards_of_not_saved (hs ∘ hsaved.mp),
    hwrite.slotRec_other, fun hn => ?short, fun hn hs => ?addressed, fun hs => ?flagged⟩
  case short => rw [hrecord, writeRecord, if_pos hn]
  case addressed => rw [hrecord, writeRecord, if_neg (Nat.not_lt.mpr hn), if_neg (hs ∘ hsaved.mp)]
  case flagged =>
    have hn : ¬rest.length < 4 := by
      have := hs.1
      omega
    rw [hrecord, writeRecord, if_neg hn, if_pos (hsaved.mpr hs)]

end Sys2Proof.Proofs
end

section
/-! The SEND3 sequencer: one DATA_IN write by the sequencer's state, what a whole frame leaves of the cursor, the frames
of the pad and of no device, and obligations O32 and O40 to O42. -/

namespace Sys2Proof.Machine

variable {s t : State}

/-! ### The entry decoded (R66, R162) -/

/-- CMDLEN is bits 16 to 8. -/
theorem entryLength_eq (e : Word) : entryLength e = e.toNat / 256 % 512 := by
  show (e.extractLsb' 8 9).toNat = _
  rw [BitVec.extractLsb'_toNat, Nat.shiftRight_eq_div_pow]

theorem decodedEntry_of_position {r : Sio2} {i : Fin 16} (h : r.send3Position = i.val) :
    decodedEntry r =
      { r with
        port := entryPort r.send3[i]
        commandLength := entryLength r.send3[i]
        send3Complete := r.send3Complete || entryLength r.send3[i] == 0
        send3Read := true } := by
  simp [decodedEntry, h]

theorem decodedEntry_of_past {r : Sio2} (h : 16 ≤ r.send3Position) :
    decodedEntry r = { r with send3Complete := true, send3Read := true } :=
  dif_neg (Nat.not_lt.mpr h)

theorem sio2DecodeEntry_eq (s : State) :
    sio2DecodeEntry s = { s with blk.sio2 := decodedEntry s.blk.sio2, blk.fifoIn := [] } := rfl

/-! ### One DATA_IN write (R160, R161, R163) -/

section Write

variable (b : Byte)

theorem exec_wr8Sio2DataIn (s : State) : exec (.wr8Sio2DataIn b) s = sio2Write b s := rfl

/-- After the end of the cycle the byte is dropped. -/
theorem sio2Write_of_complete (hread : s.blk.sio2.send3Read = true) (hcomplete : s.blk.sio2.send3Complete = true) :
    sio2Write b s = .next s := by
  simp [sio2Write, hread, hcomplete]

/-- Short of the count the byte is accumulated. -/
theorem sio2Write_of_short (hread : s.blk.sio2.send3Read = true) (hcomplete : s.blk.sio2.send3Complete = false)
    (hshort : s.blk.fifoIn.length + 1 ≠ frameTarget s.blk.sio2) :
    sio2Write b s = .next (setFifoIn (s.blk.fifoIn ++ [b]) s) := by
  simp [sio2Write, hread, hcomplete, hshort]

/-- The first write of a command decodes the entry and goes on as a write after it. -/
theorem sio2Write_of_unread (hread : s.blk.sio2.send3Read = false) :
    sio2Write b s = sio2Write b (sio2DecodeEntry s) := by
  simp [sio2Write, hread, sio2DecodeEntry]

/-- A first write whose decode ends the cycle, or finds it at its end, does no more than decode. -/
theorem sio2Write_of_unread_complete (hread : s.blk.sio2.send3Read = false)
    (hcomplete : (decodedEntry s.blk.sio2).send3Complete = true) :
    sio2Write b s = .next { s with blk.sio2 := decodedEntry s.blk.sio2, blk.fifoIn := [] } := by
  rw [sio2Write_of_unread b hread, sio2DecodeEntry_eq, sio2Write_of_complete b (decodedEntry_send3Read _) hcomplete]

/-- A first write that is not the whole frame. -/
theorem sio2Write_of_unread_short (hread : s.blk.sio2.send3Read = false)
    (hcomplete : (decodedEntry s.blk.sio2).send3Complete = false)
    (hshort : frameTarget (decodedEntry s.blk.sio2) ≠ 1) :
    sio2Write b s = .next { s with blk.sio2 := decodedEntry s.blk.sio2, blk.fifoIn := [b] } := by
  rw [sio2Write_of_unread b hread]
  exact sio2Write_of_short (s := sio2DecodeEntry s) b (decodedEntry_send3Read _) hcomplete hshort.symm

end Write

/-! ### The end of a whole frame (R165, R170) -/

/-- The fill ends at a multiple of the block. -/
theorem add_length_dmaFill_mod {block : Nat} (hblock : 0 < block) (n : Nat) :
    (n + (dmaFill block n).length) % block = 0 := by
  unfold dmaFill
  split
  · have hlt := Nat.mod_lt n hblock
    have hsum : n + (block - n % block) = block * (n / block) + block := by
      have := Nat.div_add_mod n block
      omega
    rw [List.length_replicate, hsum, Nat.add_mod_right, Nat.mul_mod_right]
  · next hfull => simpa [hblock] using hfull

/-- No bytes are no frame: the count that completes a frame is not 0. -/
theorem ne_nil_of_frameReady {bytes : List Byte} (h : frameReady bytes.length s = true) : bytes ≠ [] := by
  rintro rfl
  obtain ⟨-, -, -, hlength, htarget⟩ := (frameReady_iff _ s).mp h
  unfold frameTarget at htarget
  split at htarget
  · exact hlength htarget
  · next hdirect => exact hdirect htarget

/-- A whole frame that was answered: some handler ran from `frameStart`, and the DMA fill followed. -/
theorem sendFrame_whole_cases {bytes : List Byte} (hready : frameReady bytes.length s = true)
    (h : sendFrame bytes s = .next t) :
    ∃ rest slot u, HandlerRel (withSlot slot (frameStart rest s)) u ∧ t = sio2DmaPad u := by
  obtain ⟨m, rest, rfl⟩ := List.exists_cons_of_ne_nil (ne_nil_of_frameReady hready)
  rw [sendFrame_whole m rest s hready] at h
  obtain ⟨u, hu, hpad⟩ := andThen_eq_next h
  obtain ⟨slot, -, hhandles⟩ := sio2Dispatch_cases m (replyBase s) (frameStart rest s)
  rw [hu] at hhandles
  cases hpad
  exact ⟨rest, slot, u, hhandles, rfl⟩

/-- What a whole frame leaves of SIO2: the decoded entry, the cursor moved on, and slot and RECV1 as the handler wrote
them. -/
theorem sendFrame_whole_sio2 {bytes : List Byte} (hready : frameReady bytes.length s = true)
    (h : sendFrame bytes s = .next t) :
    t.blk.sio2 =
      { decodedEntry s.blk.sio2 with
        send3Read := false
        send3Position := s.blk.sio2.send3Position + 1
        slot := t.blk.sio2.slot
        recv1 := t.blk.sio2.recv1 } := by
  obtain ⟨rest, slot, u, hrel, rfl⟩ := sendFrame_whole_cases hready h
  rw [HandlerRel.sio2DmaPad.sio2, hrel.sio2]
  rfl

/-- Under DMA a whole frame leaves a whole number of blocks in fifoOut. -/
theorem sendFrame_whole_fifoOut_mod {bytes : List Byte} (hready : frameReady bytes.length s = true)
    (h : sendFrame bytes s = .next t) (hblock : 0 < s.blk.sio2.dmaBlockSize) :
    t.blk.fifoOut.length % s.blk.sio2.dmaBlockSize = 0 := by
  obtain ⟨rest, slot, u, hrel, rfl⟩ := sendFrame_whole_cases hready h
  have hsame : u.blk.sio2.dmaBlockSize = s.blk.sio2.dmaBlockSize := by
    rw [hrel.sio2]
    exact decodedEntry_dmaBlockSize _
  rw [sio2DmaPad_eq, pushOut_fifoOut, List.length_append, hsame]
  exact add_length_dmaFill_mod hblock _

/-! ### The pad (R166) -/

/-- The state after a run of calls to the pad whose replies were queued. -/
def padPolled (s : State) (calls : List Event) (answers : List PadAnswer) : State :=
  pushOut (answers.map PadAnswer.reply) (padCalledAll calls s)

@[simp] theorem padPolled_nil (s : State) : padPolled s [] [] = s := by
  simp [padPolled, padCalledAll]

theorem padPolled_pad (s : State) (calls : List Event) (answers : List PadAnswer) :
    (padPolled s calls answers).inputs.pad = s.inputs.pad.drop calls.length := rfl

/-- One call more, and its reply queued. -/
theorem pushOut_padCalled_padPolled (s : State) (calls : List Event) (answers : List PadAnswer) (e : Event)
    (a : PadAnswer) :
    pushOut [a.reply] (padCalled e (padPolled s calls answers)) = padPolled s (calls ++ [e]) (answers ++ [a]) := by
  rw [padPolled, padPolled, ← padCalled_padCalledAll, List.map_append, ← pushOut_pushOut]
  rfl

/-- The pad's loop after a run of calls lengthens the run by one poll for each byte. -/
theorem padDrain_padPolled (bytes : List Byte) (calls : List Event) (answers : List PadAnswer)
    (hn : answers.length = calls.length) (h : PadAnswers s answers) :
    ∃ answers',
      answers'.length = calls.length + bytes.length
        ∧ PadAnswers s answers'
        ∧ padDrain bytes (padPolled s calls answers) = padPolled s (calls ++ bytes.map Event.padPoll) answers' := by
  induction bytes generalizing calls answers with
  | nil => exact ⟨answers, hn, h, by simp [padDrain]⟩
  | cons b bytes ih =>
    have hnext := h.append (t := padPolled s calls answers) (by rw [padPolled_pad, hn])
    obtain ⟨answers', hn', h', hdrain⟩ := ih (calls ++ [.padPoll b]) _ (by simp [hn]) hnext
    refine ⟨answers', by simp [hn', Nat.add_assoc, Nat.add_comm 1], h', ?_⟩
    rw [padDrain, padPollCall_padCalled, pushOut_padCalled_padPolled, hdrain]
    simp

/-- The pad's handler is one run of calls, the start and a poll for each byte of fifoIn. -/
theorem sio2Pad_padPolled (s : State) :
    ∃ answers,
      answers.length = s.blk.fifoIn.length + 1
        ∧ PadAnswers s answers
        ∧ sio2Pad s =
            padPolled (setFifoIn [] (setRecv1 config.recv1Connected s))
              (.padStart s.blk.sio2.port s.blk.sio2.slot :: s.blk.fifoIn.map Event.padPoll) answers := by
  obtain ⟨answers, hn, h, hdrain⟩ :=
    padDrain_padPolled (s := setFifoIn [] (setRecv1 config.recv1Connected s)) s.blk.fifoIn
      [.padStart s.blk.sio2.port s.blk.sio2.slot] [padAnswer s] rfl (padAnswers_padAnswer s)
  refine ⟨answers, by rw [hn, Nat.add_comm]; rfl, h, ?_⟩
  rw [List.singleton_append] at hdrain
  rw [← hdrain, sio2Pad, padStartCall_padCalled]
  have hstart := pushOut_padCalled_padPolled (setFifoIn [] (setRecv1 config.recv1Connected s)) [] []
    (.padStart s.blk.sio2.port s.blk.sio2.slot) (padAnswer s)
  rw [padPolled_nil] at hstart
  exact congrArg (padDrain s.blk.fifoIn) hstart

/-- The DMA fill of a frame whose handler was a run of calls. -/
theorem sio2DmaPad_padPolled (s : State) (calls : List Event) (answers : List PadAnswer) :
    sio2DmaPad (padPolled s calls answers) =
      padCalledAll calls (sio2DmaPad (pushOut (answers.map PadAnswer.reply) s)) := by
  simp only [sio2DmaPad_eq]
  rfl

/-! ### Infrared and unknown modes (R168, R169) -/

theorem frameModeOf_of_not_mem {m : Byte} (h : m ∉ ([0x01, 0x21, 0x61, 0x81] : List Byte)) :
    frameModeOf m = .unknown := by
  revert m
  decide

/-- Before any reply, what is queued counts towards its length exactly where PAD_BASIS is absolute. -/
theorem queued_frameStart (s : State) (rest : List Byte) :
    (frameStart rest s).blk.fifoOut.length - replyBase s = alreadyCounted s := by
  show s.blk.fifoOut.length - replyBase s = alreadyCounted s
  unfold replyBase alreadyCounted
  cases s.params.padBasis with
  | relative => exact Nat.sub_self _
  | absolute => exact Nat.sub_zero _

/-- Infrared pops its operand and queues the fill. -/
theorem sio2Infrared_frameStart (s : State) (x : Byte) (rest : List Byte) :
    sio2Infrared (replyBase s) (frameStart (x :: rest) s) =
      .next
        (pushOut (List.replicate (nextLength s - alreadyCounted s) 0xFF)
          (setFifoIn rest (setRecv1 0x0001D100 (frameStart (x :: rest) s)))) := by
  rw [sio2Infrared, popIn_cons _ x rest _ rfl, padReplyTo_eq, setFifoIn_fifoOut, setRecv1_fifoOut, queued_frameStart]
  rfl

end Sys2Proof.Machine

namespace Sys2Proof.Proofs

open Machine

/-- Settles O32, one case for each row of R165's table that completes no frame. -/
theorem dataInFraming : Obligations.DataInFraming := by
  intro b s r
  simp only [exec_wr8Sio2DataIn]
  refine ⟨fun hread hcomplete => ?ended, fun hread hpast => ?past,
    fun i hread hcomplete hi => ⟨fun hlength => ?zero, fun hlength htarget => ?first⟩,
    fun i hread hcomplete hi => ?image, fun hread hcomplete hshort => ?further⟩
  case ended => exact sio2Write_of_complete b hread hcomplete
  case past =>
    have hentry := decodedEntry_of_past hpast
    rw [sio2Write_of_unread_complete b hread (by rw [hentry]), hentry]
  case zero =>
    have hentry := decodedEntry_of_position hi
    simp only [entryLength_eq, hlength, beq_self_eq_true, Bool.or_true] at hentry
    rw [sio2Write_of_unread_complete b hread (by rw [hentry]), hentry, hlength]
    rfl
  case first =>
    have hentry := decodedEntry_of_position hi
    have hkeep : (r.send3Complete || r.send3[i].toNat / 256 % 512 == 0) = r.send3Complete := by
      rw [beq_eq_false_iff_ne.mpr hlength, Bool.or_false]
    rw [entryLength_eq, hkeep] at hentry
    rw [sio2Write_of_unread_short b hread (by rw [hentry]; exact hcomplete) (by rw [hentry]; exact htarget), hentry]
    rfl
  case image =>
    have hentry := decodedEntry_of_position hi
    have hkeep : (r.send3Complete || r.send3[i].toNat / 256 % 512 == 0) = r.send3Complete := by
      rw [hcomplete, Bool.true_or]
    rw [entryLength_eq, hkeep] at hentry
    rw [sio2Write_of_unread_complete b hread (by rw [hentry]; exact hcomplete), hentry]
    rfl
  case further => exact sio2Write_of_short b hread hcomplete hshort

/-- Settles O40: any handler leaves the cursor, the flags and the entry's fields alone, and the fill ends the frame. -/
theorem frameEnds : Obligations.FrameEnds := by
  intro i bytes s t hi hready hexec
  rw [exec_frame i bytes s hi] at hexec
  obtain ⟨-, hcomplete, hposition, hlength, -⟩ := (frameReady_iff _ s).mp hready
  have hkeep := decodedEntry_send3Complete s.blk.sio2 hposition hlength
  have hsio2 := sendFrame_whole_sio2 hready hexec
  exact
    ⟨congrArg Sio2.send3Position hsio2, congrArg Sio2.send3Read hsio2,
      (congrArg Sio2.send3Complete hsio2).trans (hkeep.trans hcomplete), (congrArg Sio2.port hsio2).trans rfl,
      (congrArg Sio2.commandLength hsio2).trans rfl,
      (congrArg Sio2.dmaBlockSize hsio2).trans (decodedEntry_dmaBlockSize s.blk.sio2),
      sendFrame_whole_fifoOut_mod hready hexec⟩

/-- Settles O41: the handler is one run of calls to the pad, and the fill passes by it. -/
theorem padFrame : Obligations.PadFrame := by
  intro rest s hready
  obtain ⟨answers, hn, hanswers, hpad⟩ := sio2Pad_padPolled (frameStart rest s)
  refine ⟨answers, hn, hanswers, ?_⟩
  rw [exec_frame _ (0x01 :: rest) s rfl, sendFrame_whole 0x01 rest s hready]
  have hdispatch : sio2Dispatch 0x01 (replyBase s) (frameStart rest s) = .next (sio2Pad (frameStart rest s)) := rfl
  have hslot : (frameStart rest s).blk.sio2.slot = s.blk.sio2.slot := decodedEntry_slot _
  rw [hdispatch, hpad, andThen_next, sio2DmaPad_padPolled, sio2DmaPad_frame, hslot]
  rfl

/-- Settles O42: each handler queues its reply, writes RECV1 and leaves the bytes it did not pop. -/
theorem noDeviceFrames : Obligations.NoDeviceFrames := by
  intro x rest s
  refine ⟨fun hready => ?infrared, fun hready hx => ?unknown⟩
  case infrared =>
    have hdispatch : sio2Dispatch 0x61 (replyBase s) (frameStart (x :: rest) s) =
        sio2Infrared (replyBase s) (frameStart (x :: rest) s) := rfl
    rw [exec_frame _ (0x61 :: x :: rest) s rfl, sendFrame_whole 0x61 (x :: rest) s hready, hdispatch,
      sio2Infrared_frameStart, andThen_next, sio2DmaPad_frame]
  case unknown =>
    rw [exec_frame _ (x :: rest) s rfl, sendFrame_whole x rest s hready, sio2Dispatch, frameModeOf_of_not_mem hx]
    exact congrArg Host.Outcome.next (sio2DmaPad_frame s rest 0x0001D100 [0x00] rest)

end Sys2Proof.Proofs
end

section
/-! The multitap's frames: its protocol by the command byte, the handler of a whole frame on a port that is enabled and
on one that is not, and obligations O43 to O45. -/

namespace Sys2Proof.Machine

/-! ### The protocol on the bytes left of a frame (R192 to R196) -/

section Protocol

variable {c : Byte} {rest : List Byte} {t : State}

theorem mtapProtocol_supportCheck (hc : c = 0x12 ∨ c = 0x13) (h : t.blk.fifoIn = c :: rest) :
    mtapProtocol t = .next (pushOut [0x5A, 0x04, 0x00, 0x5A] (setFifoIn rest t)) := by
  rw [mtapProtocol, popIn_cons t c rest _ h]
  rcases hc with rfl | rfl <;> rfl

theorem mtapProtocol_unknown (hc : c ∉ ([0x12, 0x13, 0x21, 0x22] : List Byte)) (h : t.blk.fifoIn = c :: rest) :
    mtapProtocol t = .next (setFifoIn rest t) := by
  have hunknown : mtapCommandOf c = .unknown := by
    simpa [mtapCommandOf_unknown_iff] using hc
  rw [mtapProtocol, popIn_cons t c rest _ h]
  simp only [hunknown]

/-- Either select pops its index; the slot and the reply depend on it. -/
theorem mtapProtocol_select (hc : c = 0x21 ∨ c = 0x22) {index : Byte} (h : t.blk.fifoIn = c :: index :: rest) :
    mtapProtocol t =
      .next
        (withSlot (selectedSlot index t.blk.sio2.slot)
          (pushOut (if index.toNat < 4 then [0x5A, 0x00, 0x00, index, 0x5A] else [0x5A, 0x00, 0x00, 0xFF, 0x66])
            (setFifoIn rest t))) := by
  have hselect : mtapProtocol t = mtapSelect (setFifoIn (index :: rest) t) := by
    rw [mtapProtocol, popIn_cons t c _ _ h]
    rcases hc with rfl | rfl <;> rfl
  rw [hselect, mtapSelect, popIn_setFifoIn]
  rfl

theorem selectedSlot_of_lt {index : Byte} (h : index.toNat < 4) (old : Slot) :
    selectedSlot index old = ⟨index.toNat, h⟩ :=
  dif_pos h

theorem selectedSlot_of_le {index : Byte} (h : 4 ≤ index.toNat) (old : Slot) : selectedSlot index old = old :=
  dif_neg (Nat.not_lt.mpr h)

end Protocol

/-! ### A whole frame (R190) -/

section Frame

variable {s : State} {bytes : List Byte} {i : Instr}

/-- The state the protocol of an enabled multitap runs in, the framing byte queued. -/
def mtapStart (s : State) (bytes : List Byte) : State :=
  pushOut [0x00] (setRecv1 0x00001100 (frameStart bytes s))

theorem mtapStart_slot (s : State) (bytes : List Byte) : (mtapStart s bytes).blk.sio2.slot = s.blk.sio2.slot :=
  decodedEntry_slot _

theorem frameDone_slot (s : State) (recv1 : Word) (reply leftover : List Byte) :
    (frameDone s recv1 reply leftover).blk.sio2.slot = s.blk.sio2.slot :=
  decodedEntry_slot _

/-- A reply queued after the framing byte, the leftover in fifoIn, and the fill. -/
theorem mtapStart_done (s : State) (bytes reply leftover : List Byte) :
    sio2DmaPad (pushOut reply (setFifoIn leftover (mtapStart s bytes))) =
      frameDone s 0x00001100 (0x00 :: reply) leftover := by
  rw [← sio2DmaPad_frame s bytes, ← List.singleton_append, ← pushOut_pushOut]
  rfl

theorem sio2DmaPad_withSlot (q : Slot) (s : State) : sio2DmaPad (withSlot q s) = withSlot q (sio2DmaPad s) := by
  simp only [sio2DmaPad_eq]
  rfl

/-- A whole multitap frame: the handler of the addressed port, then the fill. -/
theorem exec_multitap (hi : encode i = .frame (0x21 :: bytes)) (hready : frameReady (bytes.length + 1) s = true) :
    exec i s =
      andThen (sio2Multitap (replyBase s) (frameStart bytes s)) fun t => .next (sio2DmaPad t) := by
  rw [exec_frame i _ s hi, sendFrame_whole 0x21 bytes s hready]
  rfl

theorem exec_multitap_enabled (hi : encode i = .frame (0x21 :: bytes))
    (hready : frameReady (bytes.length + 1) s = true) (henabled : multitapEnabled (nextPort s) s = true) :
    exec i s = andThen (mtapProtocol (mtapStart s bytes)) fun t => .next (sio2DmaPad t) := by
  have hprotocol : sio2Multitap (replyBase s) (frameStart bytes s) = mtapProtocol (mtapStart s bytes) := if_pos henabled
  rw [exec_multitap hi hready, hprotocol]

/-- The framing byte counts towards the length of a disabled port's reply. -/
theorem queued_framing (s : State) (bytes : List Byte) :
    (pushOut [0x00] (frameStart bytes s)).blk.fifoOut.length - replyBase s = 1 + alreadyCounted s := by
  show (s.blk.fifoOut ++ [0x00]).length - replyBase s = 1 + alreadyCounted s
  unfold replyBase alreadyCounted
  rw [List.length_append, List.length_singleton]
  cases s.params.padBasis with
  | relative => exact Nat.add_sub_cancel_left _ _
  | absolute => exact Nat.add_comm _ _

/-- A disabled port pops nothing: the framing byte, and zeros up to the command length. -/
theorem sio2Multitap_disabled (hdisabled : multitapEnabled (nextPort s) s = false) :
    sio2Multitap (replyBase s) (frameStart bytes s) =
      .next
        (pushOut (0x00 :: List.replicate (nextLength s - 1 - alreadyCounted s) 0x00)
          (setFifoIn bytes (setRecv1 0x0001D100 (frameStart bytes s)))) := by
  have hzeros : sio2Multitap (replyBase s) (frameStart bytes s) =
      .next
        (padReplyTo (nextLength s) 0x00 (replyBase s)
          (setRecv1 0x0001D100 (pushOut [0x00] (frameStart bytes s)))) :=
    if_neg (Bool.eq_false_iff.mp hdisabled)
  rw [hzeros, padReplyTo_eq, setRecv1_fifoOut, queued_framing, ← Nat.sub_sub]
  exact congrArg Host.Outcome.next (pushOut_pushOut (setRecv1 0x0001D100 (frameStart bytes s)) [0x00] _)

/-! ### The commands of an enabled port -/

theorem exec_supportCheck {c : Byte} {rest : List Byte} (hc : c = 0x12 ∨ c = 0x13)
    (hi : encode i = .frame (0x21 :: c :: rest)) (hready : frameReady (rest.length + 2) s = true)
    (henabled : multitapEnabled (nextPort s) s = true) :
    exec i s = .next (frameDone s 0x00001100 [0x00, 0x5A, 0x04, 0x00, 0x5A] rest) := by
  rw [exec_multitap_enabled hi hready henabled, mtapProtocol_supportCheck hc rfl, andThen_next, mtapStart_done]

theorem exec_select {c index : Byte} {rest : List Byte} (hc : c = 0x21 ∨ c = 0x22)
    (hi : encode i = .frame (0x21 :: c :: index :: rest)) (hready : frameReady (rest.length + 3) s = true)
    (henabled : multitapEnabled (nextPort s) s = true) :
    exec i s =
      .next
        (withSlot (selectedSlot index s.blk.sio2.slot)
          (frameDone s 0x00001100
            (0x00 :: if index.toNat < 4 then [0x5A, 0x00, 0x00, index, 0x5A] else [0x5A, 0x00, 0x00, 0xFF, 0x66])
            rest)) := by
  rw [exec_multitap_enabled hi hready henabled, mtapProtocol_select hc rfl, andThen_next, sio2DmaPad_withSlot,
    mtapStart_done, mtapStart_slot]

theorem exec_select_of_lt {c index : Byte} {rest : List Byte} (hc : c = 0x21 ∨ c = 0x22)
    (hi : encode i = .frame (0x21 :: c :: index :: rest)) (hready : frameReady (rest.length + 3) s = true)
    (henabled : multitapEnabled (nextPort s) s = true) (h : index.toNat < 4) :
    exec i s =
      .next (withSlot ⟨index.toNat, h⟩ (frameDone s 0x00001100 [0x00, 0x5A, 0x00, 0x00, index, 0x5A] rest)) := by
  rw [exec_select hc hi hready henabled, selectedSlot_of_lt h, if_pos h]

theorem exec_select_of_le {c index : Byte} {rest : List Byte} (hc : c = 0x21 ∨ c = 0x22)
    (hi : encode i = .frame (0x21 :: c :: index :: rest)) (hready : frameReady (rest.length + 3) s = true)
    (henabled : multitapEnabled (nextPort s) s = true) (h : 4 ≤ index.toNat) :
    exec i s = .next (frameDone s 0x00001100 [0x00, 0x5A, 0x00, 0x00, 0xFF, 0x66] rest) := by
  rw [exec_select hc hi hready henabled, selectedSlot_of_le h, if_neg (Nat.not_lt.mpr h),
    ← frameDone_slot s 0x00001100 [0x00, 0x5A, 0x00, 0x00, 0xFF, 0x66] rest, withSlot_self]

end Frame

end Sys2Proof.Machine

namespace Sys2Proof.Proofs

open Machine

/-- Settles O43: a disabled port runs no protocol, and the protocol does nothing on an unknown command. -/
theorem multitapSilence : Obligations.MultitapSilence := by
  intro rest s
  refine ⟨fun hready hdisabled => ?disabled, fun c hready henabled hc => ?unknown⟩
  case disabled =>
    rw [exec_multitap (bytes := rest) rfl hready, sio2Multitap_disabled hdisabled, andThen_next, sio2DmaPad_frame]
  case unknown =>
    have hdone := mtapStart_done s (c :: rest) [] rest
    rw [pushOut_nil] at hdone
    rw [exec_multitap_enabled (bytes := c :: rest) rfl hready henabled, mtapProtocol_unknown hc rfl, andThen_next,
      hdone]

/-- Settles O44: one protocol step for both codes. -/
theorem multitapSupportCheck : Obligations.MultitapSupportCheck := fun _ _ hready henabled =>
  ⟨exec_supportCheck (.inl rfl) rfl hready henabled, exec_supportCheck (.inr rfl) rfl hready henabled⟩

/-- Settles O45: one protocol step for both codes, split at the number of slots. -/
theorem multitapSelect : Obligations.MultitapSelect := fun _ _ _ hready henabled =>
  ⟨fun h => ⟨exec_select_of_lt (.inl rfl) rfl hready henabled h, exec_select_of_lt (.inr rfl) rfl hready henabled h⟩,
    fun h => ⟨exec_select_of_le (.inl rfl) rfl hready henabled h, exec_select_of_le (.inr rfl) rfl hready henabled h⟩⟩

end Sys2Proof.Proofs
end

section
/-! The PS2-native commands whose reply needs no operand or one: the guard over all fifteen codes, the plain reply, the
geometry, the terminators, SetSector and EraseBlock, and obligations O47, O48 and O50 to O53. -/

namespace Sys2Proof.Machine

/-! ### The guard (R204) -/

section Guarded

variable {i : Instr} {c : Byte} {rest : List Byte} {s : State}

/-- Each of the fifteen PS2-native commands runs behind the guard. -/
theorem mcCommand_native
    (hc : c ∈
      ([0x11, 0x21, 0x22, 0x23, 0x26, 0x27, 0x28, 0x42, 0x43, 0x81, 0x82, 0xBF, 0xF0, 0xF3, 0xF7] : List Byte))
    (p : Port) (q : Slot) (base : Nat) (s : State) :
    ∃ command, mcCommand p q base c s = ps1TypeGuard p q base s command := by
  simp only [List.mem_cons, List.not_mem_nil, or_false] at hc
  rcases hc with rfl | rfl | rfl | rfl | rfl | rfl | rfl | rfl | rfl | rfl | rfl | rfl | rfl | rfl | rfl
  exacts [⟨_, mcCommand_probe ..⟩, ⟨_, mcCommand_setEraseSector ..⟩, ⟨_, mcCommand_setWriteSector ..⟩,
    ⟨_, mcCommand_setReadSector ..⟩, ⟨_, mcCommand_getSpecs ..⟩, ⟨_, mcCommand_setTerminator ..⟩,
    ⟨_, mcCommand_getTerminator ..⟩, ⟨_, mcCommand_writeData ..⟩, ⟨_, mcCommand_readData ..⟩,
    ⟨_, mcCommand_readWriteEnd ..⟩, ⟨_, mcCommand_eraseBlock ..⟩, ⟨_, mcCommand_unknownBoot ..⟩,
    ⟨_, mcCommand_authXor ..⟩, ⟨_, mcCommand_authF3 ..⟩, ⟨_, mcCommand_authF7 ..⟩]

/-- The whole frame of a native command that pops nothing: its own reply, or the guard's. -/
theorem exec_guarded {command : State → State} {reply : List Byte} (hi : encode i = .frame (0x81 :: c :: rest))
    (hready : frameReady (rest.length + 2) s = true) (ha : cardAnswers s = true)
    (hcommand : mcCommand (nextPort s) s.blk.sio2.slot (replyBase s) c (memcardStart s rest) =
      ps1TypeGuard (nextPort s) s.blk.sio2.slot (replyBase s) (memcardStart s rest) fun t => .next (command t))
    (hdone : sio2DmaPad (command (memcardStart s rest)) = frameDone s 0x00001100 reply rest) :
    exec i s = .next (frameDone s 0x00001100 (nativeReply s reply) rest) := by
  rw [exec_memcard s i c rest hi hready ha, hcommand, nativeReply]
  cases hg : (nextCard s).isPSX with
  | true => rw [ps1TypeGuard_of_ps1 _ _ _ hg, if_pos rfl]
  | false =>
    rw [ps1TypeGuard_of_ps2 _ _ _ _ _ (isPSX_memcardStart s rest hg), andThen_next, hdone, if_neg Bool.false_ne_true]

end Guarded

/-! ### Replies (R172, R212) -/

/-- The plain reply of 4 bytes has no zeros to count. -/
theorem plainReply_four (s : State) : plainReply 4 s = [0x00, (nextSlot s).flag, 0x2B, (nextSlot s).term] := by
  simp [plainReply, preamble]

/-- A byte of a wider field, as a quotient. -/
theorem extractLsb'_byte_eq {w : Nat} (x : BitVec w) (start : Nat) :
    x.extractLsb' start 8 = BitVec.ofNat 8 (x.toNat / 2 ^ start) := by
  rw [← Nat.shiftRight_eq_div_pow]
  rfl

theorem geometryBytes_eq (g : Geometry) :
    geometryBytes g =
      [BitVec.ofNat 8 g.sectorSize.toNat, BitVec.ofNat 8 (g.sectorSize.toNat / 256),
        BitVec.ofNat 8 g.eraseBlockSectors.toNat, BitVec.ofNat 8 (g.eraseBlockSectors.toNat / 256),
        BitVec.ofNat 8 g.totalSectors.toNat, BitVec.ofNat 8 (g.totalSectors.toNat / 256),
        BitVec.ofNat 8 (g.totalSectors.toNat / 65536), BitVec.ofNat 8 (g.totalSectors.toNat / 16777216),
        g.xorConstant] := by
  simp [geometryBytes, bytesOfHalf, bytesOfWord, extractLsb'_byte_eq]

/-! ### SetTerminator and SetSector (R210, R214) -/

section Records

variable (s : State)

/-- The whole frame of SetTerminator on a PS2-type card. -/
theorem mcSetTerminator_done (x : Byte) (rest : List Byte) (hg : (nextCard s).isPSX = false) :
    andThen (mcSetTerminator (nextPort s) s.blk.sio2.slot (replyBase s) (memcardStart s (x :: rest)))
        (fun t => .next (sio2DmaPad t)) =
      .next
        (frameDoneSlot s { nextSlot s with term := x }
          (preamble s ++ [0x00, 0x2B, (nextSlot s).term]) rest) := by
  rw [mcSetTerminator, ps1TypeGuard_of_ps2 _ _ _ _ _ (isPSX_memcardStart s _ hg), popIn_memcardStart, andThen_next,
    ← memcardStart_doneSlot s (x :: rest)]
  rfl

/-- The byte address of the addressed sector, as a product of numbers (R49). -/
theorem sectorByteAddress_ofNat (g : Geometry) (eccBytes sector : Nat) :
    sectorByteAddress g eccBytes (BitVec.ofNat 32 sector) =
      BitVec.ofNat 32 ((g.sectorSize.toNat + eccBytes) * sector) := by
  rw [BitVec.ofNat_mul, BitVec.ofNat_add, BitVec.ofNat_toNat]
  rfl

/-- The record SetSector leaves, its fields as numbers. -/
theorem sectorSet_eq (a0 a1 a2 a3 chk : Byte) :
    sectorSet s a0 a1 a2 a3 chk =
      { nextSlot s with
        sectorAddr := BitVec.ofNat 32 (a0.toNat + 256 * a1.toNat + 65536 * a2.toNat + 16777216 * a3.toNat)
        goodSector := decide (a0 ^^^ a1 ^^^ a2 ^^^ a3 = chk)
        transferAddr :=
          BitVec.ofNat 32
            (((nextCard s).geometry.sectorSize.toNat + s.params.eccBytes)
              * (a0.toNat + 256 * a1.toNat + 65536 * a2.toNat + 16777216 * a3.toNat)) } := by
  rw [sectorSet, wordOfBytes_eq, sectorByteAddress_ofNat]
  rfl

/-- SetSector under any of its three codes, by the card's type. -/
theorem exec_setSector {i : Instr} {c a0 a1 a2 a3 chk : Byte} {rest : List Byte}
    (hc : c ∈ ([0x21, 0x22, 0x23] : List Byte))
    (hi : encode i = .frame (0x81 :: c :: a0 :: a1 :: a2 :: a3 :: chk :: rest))
    (hready : frameReady (rest.length + 7) s = true) (ha : cardAnswers s = true) :
    exec i s =
      .next
        (if (nextCard s).isPSX then frameDone s 0x00001100 (guardReply s) (a0 :: a1 :: a2 :: a3 :: chk :: rest)
        else frameDoneSlot s (sectorSet s a0 a1 a2 a3 chk) (plainReply 9 s) rest) := by
  have hcommand : ∀ p q base (t : State), mcCommand p q base c t = mcSetSector p q base t := by
    simp only [List.mem_cons, List.not_mem_nil, or_false] at hc
    rcases hc with rfl | rfl | rfl <;> exact fun _ _ _ _ => rfl
  rw [exec_memcard s i c (a0 :: a1 :: a2 :: a3 :: chk :: rest) hi hready ha, hcommand]
  split
  case isTrue hg => rw [mcSetSector, ps1TypeGuard_of_ps1 _ _ _ hg]
  case isFalse hg => rw [mcSetSector_done s _ _ _ _ _ _ (Bool.eq_false_iff.mpr hg)]

end Records

/-! ### EraseBlock (R224) -/

/-- The whole frame of EraseBlock on a PS2-type card: the erase's event, and card memories in which the block's bytes
are no longer known where the backend admits it. -/
theorem mcEraseBlock_done (s : State) (rest : List Byte) (hwf : State.wf s = true) (hg : (nextCard s).isPSX = false) :
    ∃ cards,
      andThen (mcEraseBlock (nextPort s) s.blk.sio2.slot (replyBase s) (memcardStart s rest))
          (fun t => .next (sio2DmaPad t)) =
        .next
          (emit (.cardErase (nextPort s) s.blk.sio2.slot (nextSlot s).transferAddr)
            (setCards cards (frameDone s 0x00001100 (plainReply 4 s) rest)))
      ∧ ∀ (t : State), t.cards = cards → ∀ (p : Port) (q : Slot) (a : Nat),
          Memory.byteAt (cardMem p q t) a =
            if (nextCard s).admitsErase = true ∧ nextPort s = p ∧ s.blk.sio2.slot = q
                ∧ inEraseBlock (nextCard s).geometry s.params.eccBytes (nextSlot s).transferAddr a = true then none
            else Memory.byteAt (cardMem p q s) a := by
  obtain ⟨-, -, hcards, -⟩ := (State.wf_iff s).mp hwf
  have hbytes := byteAt_cardErase (memcardStart s rest) (nextPort s) s.blk.sio2.slot (nextSlot s).transferAddr hcards
  obtain ⟨cards, herase⟩ :=
    cardErase_frame (memcardStart s rest) (nextPort s) s.blk.sio2.slot (nextSlot s).transferAddr
  rw [herase] at hbytes
  refine ⟨cards, ?frame, fun t ht => ?bytes⟩
  case frame =>
    have haddr : (slotRec (nextPort s) s.blk.sio2.slot (memcardStart s rest)).transferAddr =
        (nextSlot s).transferAddr := rfl
    rw [mcEraseBlock, ps1TypeGuard_of_ps2 _ _ _ _ _ (isPSX_memcardStart s rest hg), andThen_next, haddr, herase,
      ← endReply_done s rest 4 rest, ← sio2DmaPad_setCards, ← sio2DmaPad_emit]
    rfl
  case bytes =>
    subst ht
    exact hbytes

end Sys2Proof.Machine

namespace Sys2Proof.Proofs

open Machine

/-- Settles O47: whatever the native command is, the guard answers before it. -/
theorem ps1TypeGuard : Obligations.Ps1TypeGuard := by
  intro i c rest s hi hc hready ha hg
  obtain ⟨command, hcommand⟩ :=
    mcCommand_native hc (nextPort s) s.blk.sio2.slot (replyBase s) (memcardStart s rest)
  rw [exec_memcard s i c rest hi hready ha, hcommand, ps1TypeGuard_of_ps1 _ _ _ hg]
  rfl

/-- Settles O48: five guarded commands that end in the plain reply and do nothing else. -/
theorem plainReplies : Obligations.PlainReplies := by
  intro rest s hready ha done
  have hfour := endReply_done s rest 4 rest
  have hfive := endReply_done s rest 5 rest
  rw [plainReply_four] at hfour
  refine ⟨exec_guarded rfl hready ha (mcCommand_probe ..) hfour,
    exec_guarded rfl hready ha (mcCommand_readWriteEnd ..) hfour,
    exec_guarded rfl hready ha (mcCommand_unknownBoot ..) hfive,
    exec_guarded rfl hready ha (mcCommand_authF3 ..) hfive,
    exec_guarded rfl hready ha (mcCommand_authF7 ..) hfive, fun hcounted => ?_⟩
  rw [plainReply, hcounted]
  rfl

/-- Settles O52: a guarded command whose reply is the geometry's bytes. -/
theorem getSpecs : Obligations.GetSpecs := by
  intro rest s hready ha g
  have hexec :=
    exec_guarded (i := .mcGetSpecs rest) rfl hready ha (mcCommand_getSpecs ..)
      (memcardStart_done s rest ([0x2B] ++ geometryBytes g ++ [(nextSlot s).term]) rest)
  rw [geometryBytes_eq] at hexec
  exact hexec

/-- Settles O53: SetTerminator by the card's type, GetTerminator as a guarded command that pops nothing. -/
theorem terminators : Obligations.Terminators := by
  intro x rest s ha
  refine ⟨fun hready => ?set, fun hready => ?get⟩
  case set =>
    split
    case isTrue hg => exact ps1TypeGuard (.mcSetTerminator x rest) 0x27 (x :: rest) s rfl (by decide) hready ha hg
    case isFalse hg =>
      rw [exec_memcard s _ 0x27 (x :: rest) rfl hready ha, mcCommand_setTerminator,
        mcSetTerminator_done s x rest (Bool.eq_false_iff.mpr hg)]
      rfl
  case get =>
    exact exec_guarded rfl hready ha (mcCommand_getTerminator ..)
      (memcardStart_done s rest [0x2B, (nextSlot s).term, 0x55] rest)

/-- Settles O51: one operation under three codes. -/
theorem setSector : Obligations.SetSector := by
  intro a0 a1 a2 a3 chk rest s hready ha sector t
  have ht : t =
      if (nextCard s).isPSX then frameDone s 0x00001100 (guardReply s) (a0 :: a1 :: a2 :: a3 :: chk :: rest)
      else frameDoneSlot s (sectorSet s a0 a1 a2 a3 chk) (plainReply 9 s) rest := by
    rw [sectorSet_eq]
  rw [ht]
  exact ⟨exec_setSector s (by decide) rfl hready ha, exec_setSector s (by decide) rfl hready ha,
    exec_setSector s (by decide) rfl hready ha⟩

/-- Settles O50: the guard's reply, and the erase with its event and its frame on the cards. -/
theorem eraseBlock : Obligations.EraseBlock := by
  intro rest s hwf hready ha p q addr
  refine ⟨ps1TypeGuard (.mcEraseBlock rest) 0x82 rest s rfl (by decide) hready ha, fun hg => ?erase⟩
  case erase =>
    obtain ⟨cards, hdone, hbytes⟩ := mcEraseBlock_done s rest hwf hg
    rw [plainReply_four] at hdone
    refine ⟨_, (exec_memcard s _ 0x82 rest rfl hready ha).trans hdone, rfl, fun p' q' a => ?_⟩
    rw [hbytes _ rfl]
    refine if_congr ?_ rfl rfl
    constructor
    · rintro ⟨hadmits, rfl, rfl, hblock⟩
      exact ⟨rfl, rfl, hadmits, hblock⟩
    · rintro ⟨rfl, rfl, hadmits, hblock⟩
      exact ⟨hadmits, rfl, rfl, hblock⟩

end Sys2Proof.Proofs
end

section
/-! The memory-card frames that reach no native command: dead air, an unknown command, the Pocketstation probe and the
nested State, and obligations O46 and O56. -/

namespace Sys2Proof.Machine

section Frames

variable (s : State) (rest : List Byte)

/-! ### Dead air (R200, R202) -/

/-- The card context of a frame: the entry's port and the selected slot. -/
theorem sio2Card_frameStart : sio2Card (frameStart rest s) = (nextPort s, s.blk.sio2.slot) :=
  congrArg (Prod.mk (nextPort s)) (decodedEntry_slot _)

/-- Dead air queues one zero for the mode byte and one for each further byte, and leaves no byte in fifoIn. -/
theorem mcDeadAir_done :
    sio2DmaPad (mcDeadAir (setRecv1 0x0001D100 (frameStart rest s))) =
      frameDone s 0x0001D100 (List.replicate (rest.length + 1) 0x00) [] := by
  rw [← sio2DmaPad_frame s rest]
  rfl

/-- An armed slot counts the access, whatever is in it. -/
theorem sio2Memcard_armed (base : Nat) (h : 0 < (nextSlot s).autoEjectTicks) :
    sio2Memcard base (frameStart rest s) =
      .next
        (setSlotRec (nextPort s) s.blk.sio2.slot
          { nextSlot s with autoEjectTicks := (nextSlot s).autoEjectTicks - 1 }
          (mcDeadAir (setRecv1 0x0001D100 (frameStart rest s)))) := by
  simp only [sio2Memcard, sio2Card_frameStart]
  exact if_pos h

/-- An empty slot that is not armed counts nothing. -/
theorem sio2Memcard_absent (base : Nat) (ht : (nextSlot s).autoEjectTicks = 0) (hp : (nextCard s).present = false) :
    sio2Memcard base (frameStart rest s) = .next (mcDeadAir (setRecv1 0x0001D100 (frameStart rest s))) := by
  simp only [sio2Memcard, sio2Card_frameStart]
  exact (if_neg (Nat.not_lt.mpr ht.le)).trans (if_pos hp)

/-- A whole memory-card frame, whatever slot it finds. -/
theorem exec_sio2Memcard {i : Instr} (hi : encode i = .frame (0x81 :: rest))
    (hready : frameReady (rest.length + 1) s = true) :
    exec i s = andThen (sio2Memcard (replyBase s) (frameStart rest s)) fun t => .next (sio2DmaPad t) := by
  rw [exec_frame i _ s hi, sendFrame_whole 0x81 rest s hready]
  rfl

/-! ### An unknown command and the Pocketstation probe (R232, R262) -/

theorem mcCommand_unknown {c : Byte} (h : (!Codes.memcardCommands.contains c) = true) (p : Port) (q : Slot)
    (base : Nat) : mcCommand p q base c s = .next s := by
  simp only [mcCommand, (mcCommandOf_unknown_iff c).mpr h]

theorem mcPs1Pocketstation_done :
    sio2DmaPad (mcPs1Pocketstation (memcardStart s rest)) =
      frameDone s 0x0001D100 (preamble s ++ [0x00]) rest := by
  rw [← sio2DmaPad_frame s rest, ← pushOut_pushOut]
  rfl

/-! ### The nested State (R260, R266) -/

theorem sio2DmaPad_setPs1 (r : Ps1) : sio2DmaPad (setPs1 r s) = setPs1 r (sio2DmaPad s) := by
  simp only [sio2DmaPad_eq]
  rfl

/-- State answers each byte with a zero and moves the cursor on, and does nothing else. -/
theorem ps1Drain_ps1State (l : List Byte) :
    ps1Drain (fun _ t => ps1State t) l s =
      setPs1 { s.blk.ps1 with cursor := s.blk.ps1.cursor + l.length } (pushOut (List.replicate l.length 0x00) s) := by
  induction l generalizing s with
  | nil => simp [ps1Drain, setPs1, pushOut]
  | cons b l ih =>
    have hcursor : s.blk.ps1.cursor + (b :: l).length = s.blk.ps1.cursor + 1 + l.length := by
      rw [List.length_cons]
      omega
    have hreplies := pushOut_pushOut s [0x00] (List.replicate l.length 0x00)
    have hstate := congrArg (setPs1 { s.blk.ps1 with cursor := s.blk.ps1.cursor + 1 + l.length }) hreplies
    rw [ps1Drain, ih, hcursor]
    exact hstate

/-- The record starts afresh, and fifoIn is drained. -/
theorem mcPs1State_memcardStart :
    mcPs1State (memcardStart s rest) =
      setPs1 { Ps1.start with cursor := 2 + rest.length }
        (pushOut (List.replicate rest.length 0x00) (setFifoIn [] (memcardStart s rest))) := by
  rw [mcPs1State, ps1Nested, ps1Drain_ps1State]
  rfl

end Frames

end Sys2Proof.Machine

namespace Sys2Proof.Proofs

open Machine

/-- Settles O46: the two slots that do not answer, by the counter before the presence. -/
theorem memcardDeadAir : Obligations.MemcardDeadAir := by
  intro i rest s hi hready
  refine ⟨fun harmed => ?armed, fun hticks habsent => ?absent⟩
  case armed =>
    rw [exec_sio2Memcard s rest hi hready, sio2Memcard_armed s rest _ harmed, andThen_next, sio2DmaPad_setSlotRec,
      mcDeadAir_done]
  case absent =>
    rw [exec_sio2Memcard s rest hi hready, sio2Memcard_absent s rest _ hticks habsent, andThen_next, mcDeadAir_done]

/-- Settles O56: three commands that run outside the guard. -/
theorem smallMemcardFrames : Obligations.SmallMemcardFrames := by
  intro rest s hready ha
  refine ⟨fun c hwf => ?unknown, ?pocketstation, ?state⟩
  case unknown =>
    have hdone := memcardStart_done s rest [] rest
    rw [pushOut_nil, List.append_nil] at hdone
    rw [exec_memcard s _ c rest rfl hready ha, mcCommand_unknown _ hwf, andThen_next]
    exact congrArg Host.Outcome.next hdone
  case pocketstation =>
    rw [exec_memcard s _ 0x58 rest rfl hready ha, mcCommand_ps1Pocketstation, andThen_next, mcPs1Pocketstation_done]
    rfl
  case state =>
    rw [exec_memcard s _ 0x53 rest rfl hready ha, mcCommand_ps1State, andThen_next, mcPs1State_memcardStart,
      sio2DmaPad_setPs1, memcardStart_done]
    rfl

end Sys2Proof.Proofs
end

section
/-! The body of a PS1 transaction, one TX_DATA write at a time: the handler's arm at each position of its layout, and
obligations O20 to O23. -/

namespace Sys2Proof.Machine

section Byte

variable {s : State} {c : Byte} {pos : Nat} (b : Byte)

/-! ### A byte of the body (R140) -/

/-- The state in which the handler of a body byte runs: the byte stored. The command and the position are written out,
so that where they are given the handler's arm is found by evaluation. -/
def bodyAt (c : Byte) (pos : Nat) (b : Byte) (s : State) : State :=
  { txStored b s with
    blk.sio0 := { (txStored b s).blk.sio0 with command := c }
    blk.ps1 := { s.blk.ps1 with cursor := pos } }

/-- In the body of that command at that position they are there already. -/
theorem bodyAt_eq (hat : ps1At c pos s = true) : bodyAt c pos b s = txStored b s := by
  obtain ⟨-, -, -, rfl, rfl⟩ := (ps1At_iff s c pos).mp hat
  rfl

section At

variable (hat : ps1At c pos s = true)
include hat

theorem txWrite_body {reply : Byte} {t : State} (h : s0MemcardBody b (bodyAt c pos b s) = (reply, t)) :
    txWrite b s = .next (txReplied reply t) := by
  rw [bodyAt_eq b hat] at h
  obtain ⟨hgate, hstage, hmode, -, -⟩ := (ps1At_iff s c pos).mp hat
  exact txWrite_memcardBody b s hgate hstage hmode reply t h

/-- The end of a byte that changes the PS1 record alone. -/
theorem txReplied_ps1 (reply : Byte) (ack : Bool) (r : Ps1) :
    txReplied reply (ackIf ack (setPs1 r (bodyAt c pos b s))) = ps1Done s b reply ack r := by
  rw [bodyAt_eq b hat]
  obtain ⟨-, hstage, hmode, -, -⟩ := (ps1At_iff s c pos).mp hat
  rw [ps1Done, ← hstage, ← hmode, ← txReplied_ackIf]
  rfl

/-- A byte whose handler changes the PS1 record alone. -/
theorem txWrite_body_done {reply : Byte} {ack : Bool} {r : Ps1}
    (h : s0MemcardBody b (bodyAt c pos b s) = (reply, ackIf ack (setPs1 r (bodyAt c pos b s)))) :
    txWrite b s = .next (ps1Done s b reply ack r) := by
  rw [txWrite_body b hat h, txReplied_ps1 b hat]

/-- The least significant address byte, of either layout: the recompute, and the checksum's seed (R242, R243). -/
theorem txWrite_body_addrLSB
    (h : s0MemcardBody b (bodyAt c pos b s) =
      (0x00, ps1Ack (ps1TakeLSB (sio0Port s) 0 b (ps1Advance (bodyAt c pos b s))))) :
    txWrite b s =
      .next
        (setSlotRec (sio0Port s) 0 (addressed (slotRec (sio0Port s) 0 s) s.blk.ps1.addrMSB b)
          (ps1Done s b 0x00 true
            { s.blk.ps1 with cursor := pos + 1, addrLSB := b, checksum := seed s s.blk.ps1.addrMSB b })) := by
  rw [ps1TakeLSB_eq] at h
  rw [txWrite_body b hat h, ← txReplied_ps1 b hat]
  rfl

/-- A byte past either layout (R264). -/
theorem txWrite_body_past
    (h : s0MemcardBody b (bodyAt c pos b s) = ps1PastLayout (ps1Advance (bodyAt c pos b s))) :
    ∃ reply : Byte, txWrite b s =
      .next (drawFree (ps1Done s b reply false { s.blk.ps1 with cursor := pos + 1 })) := by
  refine ⟨Config.pastLayoutReply s.freeCount, ?_⟩
  rw [txWrite_body b hat h, ← txReplied_ps1 b hat]
  rfl

end At

/-! ### Read (R244, R247) -/

section Read

variable (p : Port) (q : Slot)

theorem ps1Read_data {i : Fin 128} (h : readPosition s.blk.ps1.cursor = .data i) :
    ps1Read p q b s = ps1ReadData p q i (ps1Advance s) := by
  simp only [ps1Read, h]

theorem ps1Read_past (h : readPosition s.blk.ps1.cursor = .past) : ps1Read p q b s = ps1PastLayout (ps1Advance s) := by
  simp only [ps1Read, h]

/-- The first data byte comes after the fetch. -/
theorem ps1ReadData_first {i : Fin 128} (h : i.val = 0) :
    ps1ReadData p q i s =
      ((ps1Fetch p q s).blk.ps1.buf[i],
        ps1Ack
          (setPs1
            { (ps1Fetch p q s).blk.ps1 with
              checksum := (ps1Fetch p q s).blk.ps1.checksum ^^^ (ps1Fetch p q s).blk.ps1.buf[i] }
            (ps1Fetch p q s))) := by
  simp only [ps1ReadData, if_pos h]

/-- Later ones come from the buffer. -/
theorem ps1ReadData_later {i : Fin 128} (h : 0 < i.val) :
    ps1ReadData p q i s =
      (s.blk.ps1.buf[i], ps1Ack (setPs1 { s.blk.ps1 with checksum := s.blk.ps1.checksum ^^^ s.blk.ps1.buf[i] } s)) := by
  simp only [ps1ReadData, if_neg (Nat.pos_iff_ne_zero.mp h)]

end Read

/-- The position of the fetch: the storage call, the buffer as the storage answers, its first byte (R247). -/
theorem txWrite_fetch (hat : ps1At 0x52 10 s = true) :
    ∃ buf : Vector Byte 128,
      buf.toList = cardReadBytes (sio0Port s) 0 (slotRec (sio0Port s) 0 s).transferAddr 128 s ∧
        txWrite b s =
          .next
            (ps1Done (cardReadCall (sio0Port s) 0 (slotRec (sio0Port s) 0 s).transferAddr 128 s) b buf[0] true
              { s.blk.ps1 with cursor := 11, buf := buf, checksum := s.blk.ps1.checksum ^^^ buf[0] }) := by
  have hfetched :
      ps1At 0x52 10 (cardReadCall (sio0Port s) 0 (slotRec (sio0Port s) 0 s).transferAddr 128 s) = true := hat
  refine ⟨bufferOf _, bufferOf_toList _ (length_cardReadBytes ..), ?_⟩
  rw [txWrite_body b hat (ps1ReadData_first (sio0Port s) 0 (i := 0) rfl), ← txReplied_ps1 b hfetched]
  rfl

/-- A data byte after the first. -/
theorem txWrite_readData (i : Fin 128) (hi : 0 < i.val) (hat : ps1At 0x52 (10 + i.val) s = true) :
    txWrite b s =
      .next
        (ps1Done s b s.blk.ps1.buf[i] true
          { s.blk.ps1 with
            cursor := 10 + i.val + 1
            checksum := s.blk.ps1.checksum ^^^ s.blk.ps1.buf[i] }) :=
  txWrite_body_done b hat ((ps1Read_data b _ 0 (readPosition_data i)).trans (ps1ReadData_later _ 0 hi))

/-! ### Write (R252, R258) -/

section Write

variable (p : Port) (q : Slot)

theorem ps1Write_data {i : Fin 128} (h : writePosition s.blk.ps1.cursor = .data i) :
    ps1Write p q b s = (0x00, ps1Ack (ps1Buffer i b (ps1Advance s))) := by
  simp only [ps1Write, h]
  rfl

theorem ps1Write_past (h : writePosition s.blk.ps1.cursor = .past) :
    ps1Write p q b s = ps1PastLayout (ps1Advance s) := by
  simp only [ps1Write, h]

theorem ps1WriteCommit_mismatch (h : s.blk.ps1.expected ≠ s.blk.ps1.checksum) : ps1WriteCommit p q s = (0x4E, s) :=
  if_pos h

theorem ps1WriteCommit_badSector (h : s.blk.ps1.expected = s.blk.ps1.checksum)
    (hsector : (slotRec p q s).goodSector = false) : ps1WriteCommit p q s = (0xFF, s) :=
  (if_neg (not_not_intro h)).trans (if_pos hsector)

/-- The 128 bytes buffered are saved, and FLAG's directory-unread bit is cleared. -/
theorem ps1WriteCommit_good (h : s.blk.ps1.expected = s.blk.ps1.checksum)
    (hsector : (slotRec p q s).goodSector = true) :
    ps1WriteCommit p q s =
      (0x47,
        setSlotRec p q { slotRec p q s with flag := (slotRec p q s).flag &&& 0xF7 }
          (cardSave p q (slotRec p q s).transferAddr s.blk.ps1.buf.toList s)) := by
  refine (if_neg (not_not_intro h)).trans ((if_neg (ne_false_of_eq_true hsector)).trans ?_)
  simp only [cardSave_eq]
  rfl

end Write

/-- A data byte is buffered. -/
theorem txWrite_writeData (i : Fin 128) (hat : ps1At 0x57 (6 + i.val) s = true) :
    txWrite b s =
      .next
        (ps1Done s b 0x00 true
          { s.blk.ps1 with
            cursor := 6 + i.val + 1
            buf := s.blk.ps1.buf.set i b
            checksum := s.blk.ps1.checksum ^^^ b }) :=
  txWrite_body_done b hat (ps1Write_data b _ 0 (writePosition_data i))

section Commit

variable (hat : ps1At 0x57 137 s = true)
include hat

theorem txWrite_commit_mismatch (h : s.blk.ps1.expected ≠ s.blk.ps1.checksum) :
    txWrite b s = .next (ps1Done s b 0x4E false { s.blk.ps1 with cursor := 138 }) :=
  txWrite_body_done b hat (ps1WriteCommit_mismatch (s := ps1Advance (bodyAt 0x57 137 b s)) _ 0 h)

theorem txWrite_commit_badSector (h : s.blk.ps1.expected = s.blk.ps1.checksum)
    (hsector : (slotRec (sio0Port s) 0 s).goodSector = false) :
    txWrite b s = .next (ps1Done s b 0xFF false { s.blk.ps1 with cursor := 138 }) :=
  txWrite_body_done b hat (ps1WriteCommit_badSector (s := ps1Advance (bodyAt 0x57 137 b s)) _ 0 h hsector)

/-- The save leaves the state of the other outcomes, and beside it the call, FLAG and the cards. -/
theorem txWrite_commit_good (h : s.blk.ps1.expected = s.blk.ps1.checksum)
    (hsector : (slotRec (sio0Port s) 0 s).goodSector = true) :
    txWrite b s =
      .next
        (setCards
          (cardSave (sio0Port s) 0 (slotRec (sio0Port s) 0 s).transferAddr s.blk.ps1.buf.toList s).cards
          (setSlotRec (sio0Port s) 0
            { slotRec (sio0Port s) 0 s with flag := (slotRec (sio0Port s) 0 s).flag &&& 0xF7 }
            (ps1Done
              (emit (.cardSave (sio0Port s) 0 (slotRec (sio0Port s) 0 s).transferAddr s.blk.ps1.buf.toList) s)
              b 0x47 false { s.blk.ps1 with cursor := 138 }))) := by
  have hcalled :
      ps1At 0x57 137
        (emit (.cardSave (sio0Port s) 0 (slotRec (sio0Port s) 0 s).transferAddr s.blk.ps1.buf.toList) s) = true := hat
  rw [txWrite_body b hat
      (ps1WriteCommit_good (s := ps1Advance (bodyAt 0x57 137 b s)) (sio0Port s) 0 h hsector),
    ← txReplied_ps1 b hcalled, cardSave_eq, cardSave_eq]
  rfl

end Commit

end Byte

/-! ### State (R260) -/

/-- The state a State transaction leaves, on a slot that answers. -/
def stateSent (rest : List Byte) (s : State) : State :=
  { s with
    blk.sio0 :=
      { s.blk.sio0 with
        stat := statWritten s.blk.sio0.stat true
        txData := rest.getLastD 0x53
        rxData := if rest = [] then (slotRec (sio0Port s) 0 s).flag else 0x00
        stage := .working
        sioMode := .memcard
        command := 0x53 }
    blk.ps1 := { Ps1.start with cursor := 2 + rest.length }
    events := s.events ++ List.replicate (2 + rest.length) (.irq .sio0) }

section State

variable {s : State}

/-- A byte at any position is answered 0x00. -/
theorem txWrite_stateByte (b : Byte) {pos : Nat} (hat : ps1At 0x53 pos s = true) :
    txWrite b s = .next (ps1Done s b 0x00 false { s.blk.ps1 with cursor := pos + 1 }) :=
  txWrite_body_done b hat rfl

/-- The command is latched. -/
theorem ps1Started_stateSent : ps1Started s 0x53 = stateSent [] s := by
  have hstat : (ps1Started s 0x53).blk.sio0.stat = statWritten s.blk.sio0.stat true :=
    statWritten_statWritten s.blk.sio0.stat true true
  have hevents : s.events ++ [Event.irq .sio0] ++ [Event.irq .sio0] = s.events ++ List.replicate 2 (.irq .sio0) :=
    List.append_assoc ..
  rw [stateSent, ← hstat, show 2 + ([] : List Byte).length = 2 from rfl, ← hevents]
  rfl

/-- One byte more. -/
theorem stateSent_append_singleton (rest : List Byte) (b : Byte) :
    stateSent (rest ++ [b]) s =
      ps1Done (stateSent rest s) b 0x00 false
        { (stateSent rest s).blk.ps1 with cursor := 2 + rest.length + 1 } := by
  have hstat : (txDone (stateSent rest s) b 0x00 false .working .memcard).blk.sio0.stat =
      statWritten s.blk.sio0.stat true :=
    statWritten_statWritten s.blk.sio0.stat true false
  have hlength : 2 + (rest ++ [b]).length = 2 + rest.length + 1 := by
    rw [List.length_append, List.length_singleton, Nat.add_assoc]
  have hevents : s.events ++ List.replicate (2 + rest.length + 1) (.irq .sio0) =
      (stateSent rest s).events ++ [Event.irq .sio0] := by
    rw [List.replicate_succ', ← List.append_assoc]
    rfl
  rw [stateSent, List.getLastD_concat, if_neg (List.concat_ne_nil b rest), hlength, hevents, ← hstat]
  rfl

variable (hidle : sio0Idle s = true) (hanswers : ps1Answers s = true)
include hidle hanswers

/-- A State transaction of any length, from its last byte. -/
theorem sendTransaction_state (rest : List Byte) :
    sendTransaction (0x81 :: 0x53 :: rest) s = .next (stateSent rest s) := by
  induction rest using List.reverseRecOn with
  | nil =>
    obtain ⟨hmodeByte, hexpects⟩ := sendTransaction_memcard hidle hanswers [0x53]
    rw [hmodeByte, sendTransaction_singleton, txWrite_latch 0x53 hexpects (.inr (.inl rfl))]
    exact congrArg Host.Outcome.next ps1Started_stateSent
  | append_singleton rest b ih =>
    obtain ⟨hgate, -⟩ := (sio0Idle_iff s).mp hidle
    have hat : ps1At 0x53 (2 + rest.length) (stateSent rest s) = true :=
      (ps1At_iff _ _ _).mpr ⟨hgate, rfl, rfl, rfl, rfl⟩
    have hsent := sendTransaction_append_singleton (0x81 :: 0x53 :: rest) b ih
    rw [List.cons_append, List.cons_append] at hsent
    rw [hsent, txWrite_stateByte b hat, stateSent_append_singleton]

end State

end Sys2Proof.Machine

namespace Sys2Proof.Proofs

open Machine

/-- Settles O20: the handler's arm at each position. -/
theorem txPs1Read : Obligations.TxPs1Read := by
  intro b s pos hat r next p addr
  refine ⟨?handshake1, ?handshake2, ?addrMSB, ?addrLSB, ?handshake3, ?handshake4, ?echoMSB, ?echoLSB, ?fetch, ?data,
    ?checksum, ?trailer, fun hpast => ?past⟩
  case data =>
    rintro i hi rfl
    exact txWrite_readData b i hi hat
  case past => exact txWrite_body_past b hat (ps1Read_past b _ 0 (readPosition_past pos hpast))
  all_goals rintro rfl
  case fetch => exact txWrite_fetch b hat
  case addrLSB => exact txWrite_body_addrLSB b hat rfl
  all_goals exact txWrite_body_done b hat rfl

/-- Settles O21: the handler's arm at each position. -/
theorem txPs1Write : Obligations.TxPs1Write := by
  intro b s pos hat r next p
  refine ⟨?handshake1, ?handshake2, ?addrMSB, ?addrLSB, ?data, ?checksum, ?handshake3, ?handshake4,
    fun hpast => ?past⟩
  case data =>
    rintro i rfl
    exact txWrite_writeData b i hat
  case past => exact txWrite_body_past b hat (ps1Write_past b _ 0 (writePosition_past pos hpast))
  all_goals rintro rfl
  case addrLSB => exact txWrite_body_addrLSB b hat rfl
  all_goals exact txWrite_body_done b hat rfl

/-- Settles O22: the three outcomes of `Ps1WriteCommit` in their order. -/
theorem txPs1WriteCommit : Obligations.TxPs1WriteCommit := by
  intro b s hwf hat r next p m
  refine ⟨txWrite_commit_mismatch b hat, txWrite_commit_badSector b hat, fun hsum hsector => ?good⟩
  case good =>
    obtain ⟨-, -, hcards, -⟩ := (State.wf_iff s).mp hwf
    have hsaved := cardSave_saved s p 0 m.transferAddr r.buf.toList hcards (by simp)
    exact ⟨_, txWrite_commit_good b hat hsum hsector, hsaved.congr rfl rfl rfl, rfl⟩

/-- Settles O23: a byte at any position, and the transaction's bytes one after the other. -/
theorem ps1StateCommand : Obligations.Ps1StateCommand := by
  refine ⟨fun b s pos hat => txWrite_stateByte b hat, fun rest s hidle hanswers => ?transaction⟩
  case transaction =>
    have hstat : statWritten s.blk.sio0.stat true = s.blk.sio0.stat ||| 0x00000087 := BitVec.or_assoc ..
    rw [← hstat]
    exact sendTransaction_state hidle hanswers rest

end Sys2Proof.Proofs
end

section
/-! The PS1 commands nested in an SIO2 frame: what a run of a handler leaves of the frame, and obligations O57 and
O58. -/

namespace Sys2Proof.Machine

/-! ### What a byte of a handler leaves -/

/-- A handler of a layout leaves SIO2, the queues and the inputs, and acknowledges its first byte. -/
structure Ps1Handler (handler : Byte → State → Byte × State) : Prop where
  rel : ∀ b s, HandlerRel s (handler b s).2
  queues : ∀ b s, (handler b s).2.blk.sio2 = s.blk.sio2 ∧ (handler b s).2.blk.fifoIn = s.blk.fifoIn
    ∧ (handler b s).2.blk.fifoOut = s.blk.fifoOut
  inputs : ∀ b s, (handler b s).2.inputs = s.inputs
  first : ∀ b s, s.blk.ps1.cursor = 2 → (handler b s).2.blk.sio0.stat = s.blk.sio0.stat ||| 0x00000080

section Handlers

variable (p : Port) (q : Slot)

theorem ps1Handler_read : Ps1Handler (ps1Read p q) where
  rel b _ := .ps1Read p q b
  queues b _ := ps1Read_queues p q b
  inputs := ps1Read_inputs p q
  first b s h := by
    have hpos : readPosition s.blk.ps1.cursor = .handshake1 := congrArg readPosition h
    simp only [ps1Read, hpos]
    rfl

theorem ps1Handler_write : Ps1Handler (ps1Write p q) where
  rel b _ := .ps1Write p q b
  queues b _ := ps1Write_queues p q b
  inputs := ps1Write_inputs p q
  first b s h := by
    have hpos : writePosition s.blk.ps1.cursor = .handshake1 := congrArg writePosition h
    simp only [ps1Write, hpos]
    rfl

end Handlers

/-! ### A run of a handler -/

section Drain

variable {handler : Byte → State → Byte × State} (h : Ps1Handler handler)
include h

theorem ps1Drain_unchanged (l : List Byte) (s : State) :
    (ps1Drain handler l s).blk.sio2 = s.blk.sio2 ∧ (ps1Drain handler l s).blk.fifoIn = s.blk.fifoIn
      ∧ (ps1Drain handler l s).inputs = s.inputs := by
  induction l generalizing s with
  | nil => exact ⟨rfl, rfl, rfl⟩
  | cons b l ih =>
    obtain ⟨hsio2, hfifoIn, hinputs⟩ := ih (pushOut [(handler b s).1] (handler b s).2)
    obtain ⟨hsio2', hfifoIn', -⟩ := h.queues b s
    exact ⟨hsio2.trans hsio2', hfifoIn.trans hfifoIn', hinputs.trans (h.inputs b s)⟩

/-- The first byte acknowledges, and no later one takes that back. -/
theorem ps1Drain_stat (l : List Byte) (s : State) (hc : s.blk.ps1.cursor = 2) :
    (ps1Drain handler l s).blk.sio0.stat = s.blk.sio0.stat ||| (if l = [] then 0 else 0x00000080) := by
  cases l with
  | nil => exact BitVec.or_zero.symm
  | cons b l =>
    have hfirst := h.first b s hc
    rw [if_neg (List.cons_ne_nil b l), ← hfirst]
    rcases (HandlerRel.ps1Drain h.rel l (pushOut [(handler b s).1] (handler b s).2)).stat with hstat | hstat
    · exact hstat
    · refine hstat.trans ?_
      change (handler b s).2.blk.sio0.stat ||| 0x00000080 = _
      rw [hfirst, BitVec.or_assoc, BitVec.or_self]

end Drain

/-! ### A nested frame (R266) -/

/-- The state in which a nested handler meets its first byte. -/
def nestedStart (rest : List Byte) (s : State) : State := setFifoIn [] (ps1Reset (memcardStart s rest))

/-- The reply to a nested frame. -/
def nestedReply (handler : Byte → State → Byte × State) (rest : List Byte) (s : State) : List Byte :=
  preamble s ++ (ps1Run (queuing handler) rest (nestedStart rest s)).1

theorem length_nestedReply (handler : Byte → State → Byte × State) (rest : List Byte) (s : State) :
    (nestedReply handler rest s).length = rest.length + 2 := by
  rw [nestedReply, List.length_append, length_ps1Run, Nat.add_comm]
  rfl

/-- A state is its fields. -/
theorem State.eq_of_fields {t : State} {sio0 : Sio0} {sio2 : Sio2} {fifoIn fifoOut : List Byte} {inputs : Inputs}
    {params : Params} {pending : List HostOp} (hsio0 : t.blk.sio0 = sio0) (hsio2 : t.blk.sio2 = sio2)
    (hfifoIn : t.blk.fifoIn = fifoIn) (hfifoOut : t.blk.fifoOut = fifoOut) (hinputs : t.inputs = inputs)
    (hparams : t.params = params) (hpending : t.pending = pending) :
    t =
      { t with
        blk := { t.blk with sio0 := sio0, sio2 := sio2, fifoIn := fifoIn, fifoOut := fifoOut }
        inputs := inputs
        params := params
        pending := pending } := by
  subst hsio0 hsio2 hfifoIn hfifoOut hinputs hparams hpending
  rfl

/-- What a nested frame leaves of the parts that no layout speaks of. -/
def NestedLeft (rest reply : List Byte) (s t : State) : Prop :=
  t =
    { frameDone s 0x00001100 reply [] with
      blk.sio0.stat := s.blk.sio0.stat ||| (if rest = [] then 0 else 0x00000080)
      blk.mcd := t.blk.mcd
      blk.ps1 := t.blk.ps1
      cards := t.cards
      events := t.events
      freeCount := t.freeCount }

section Nested

variable {handler : Byte → State → Byte × State} (h : Ps1Handler handler) (rest : List Byte) (s : State)
include h

/-- The queue when the frame's bytes are used up. -/
theorem ps1Drain_nestedStart_fifoOut :
    (ps1Drain handler rest (nestedStart rest s)).blk.fifoOut = s.blk.fifoOut ++ nestedReply handler rest s := by
  have hkept (b : Byte) (s : State) : (handler b s).2.blk.fifoOut = s.blk.fifoOut := by
    obtain ⟨-, -, hfifoOut⟩ := h.queues b s
    exact hfifoOut
  rw [ps1Drain_fifoOut handler hkept, nestedReply, ← List.append_assoc]
  rfl

/-- A nested frame as a whole: the run of the handler, the DMA fill, and what they leave of the frame. -/
theorem exec_nested {i : Instr} {c : Byte} (hi : encode i = .frame (0x81 :: c :: rest))
    (hready : frameReady (rest.length + 2) s = true) (ha : cardAnswers s = true)
    (hc : ∀ base u, mcCommand (nextPort s) s.blk.sio2.slot base c u = .next (ps1Nested handler u)) :
    ∃ (t : State) (fill : List Byte),
      exec i s = .next t ∧ t = pushOut fill (ps1Run (queuing handler) rest (nestedStart rest s)).2
        ∧ NestedLeft rest (nestedReply handler rest s) s t := by
  have hexec := exec_memcard s i c rest hi hready ha
  rw [hc, andThen_next, sio2DmaPad_eq] at hexec
  refine ⟨_, _, hexec, congrArg _ (ps1Drain_eq handler rest (nestedStart rest s)), ?_⟩
  have hrel := HandlerRel.ps1Drain h.rel rest (nestedStart rest s)
  have hstat := ps1Drain_stat h rest (nestedStart rest s) rfl
  have hfifoOut := ps1Drain_nestedStart_fifoOut h rest s
  obtain ⟨hsio2, hfifoIn, hinputs⟩ := ps1Drain_unchanged h rest (nestedStart rest s)
  refine State.eq_of_fields ?sio0 ?sio2 hfifoIn ?fifoOut hinputs hrel.params hrel.pending
  case sio0 =>
    refine hrel.sio0.trans ?_
    rw [hstat]
    rfl
  case sio2 => exact hsio2
  case fifoOut =>
    have hblock : (ps1Drain handler rest (nestedStart rest s)).blk.sio2.dmaBlockSize = s.blk.sio2.dmaBlockSize :=
      (congrArg Sio2.dmaBlockSize hsio2).trans (memcardStart_dmaBlockSize s rest)
    refine (congrArg₂ _ hfifoOut (congrArg₂ dmaFill hblock (congrArg List.length hfifoOut))).trans ?_
    rw [List.length_append]
    rfl

end Nested

section Layouts

variable (rest : List Byte) {s : State} (hready : frameReady (rest.length + 2) s = true)
  (ha : cardAnswers s = true)
include hready ha

/-- A nested Read: what every nested frame leaves, the invariant of the layout, and the reply as far as the layout
goes (R244). -/
theorem exec_mcPs1Read :
    ∃ (reply : List Byte) (t : State), exec (.mcPs1Read rest) s = .next t ∧ reply.length = rest.length + 2
      ∧ reply.take 140 = (preamble s ++ readLayout (nextPort s) s.blk.sio2.slot s rest).take (rest.length + 2)
      ∧ NestedLeft rest reply s t ∧ ReadAt (nextPort s) s.blk.sio2.slot s rest t := by
  obtain ⟨t, fill, hexec, rfl, hleft⟩ :=
    exec_nested (ps1Handler_read (nextPort s) s.blk.sio2.slot) rest s (i := .mcPs1Read rest) rfl hready ha
      fun _ _ => rfl
  have hstart : ReadAt (nextPort s) s.blk.sio2.slot s [] (nestedStart rest s) :=
    .start _ _ s _ rfl rfl rfl (fun _ => rfl) rfl rfl rfl
  obtain ⟨hread, hreplies⟩ := ps1Run_read _ _ s (queuing (ps1Read (nextPort s) s.blk.sio2.slot))
    (fun _ b _ h => h.queuing _ _ s b) rest _ hstart
  exact ⟨_, _, hexec, length_nestedReply _ rest s, congrArg (preamble s ++ ·) hreplies, hleft,
    hread.congr _ _ s rfl rfl rfl (fun _ => rfl) rfl rfl rfl⟩

/-- The same of a nested Write (R252). -/
theorem exec_mcPs1Write :
    ∃ (reply : List Byte) (t : State), exec (.mcPs1Write rest) s = .next t ∧ reply.length = rest.length + 2
      ∧ reply.take 138 = (preamble s ++ writeLayout s rest).take (rest.length + 2)
      ∧ NestedLeft rest reply s t ∧ WriteAt (nextPort s) s.blk.sio2.slot s rest t := by
  obtain ⟨t, fill, hexec, rfl, hleft⟩ :=
    exec_nested (ps1Handler_write (nextPort s) s.blk.sio2.slot) rest s (i := .mcPs1Write rest) rfl hready ha
      fun _ _ => rfl
  have hstart : WriteAt (nextPort s) s.blk.sio2.slot s [] (nestedStart rest s) := .start _ _ s _ rfl rfl rfl rfl rfl
  obtain ⟨hwrite, hreplies⟩ := ps1Run_write _ _ s (queuing (ps1Write (nextPort s) s.blk.sio2.slot))
    (fun _ b _ h => h.queuing _ _ s b) rest _ hstart
  exact ⟨_, _, hexec, length_nestedReply _ rest s, congrArg (preamble s ++ ·) hreplies, hleft,
    hwrite.congr _ _ s rfl rfl rfl rfl rfl⟩

end Layouts

/-! ### The addressed record of a Write -/

section WriteAt

variable {p : Port} {q : Slot} {s t : State} {l : List Byte} (h : WriteAt p q s l t)
include h

theorem WriteAt.slotRec_short (hn : l.length < 4) : slotRec p q t = slotRec p q s := by
  rw [h.slotRec_addressed, writeRecord, if_pos hn]

theorem WriteAt.slotRec_unsaved (hn : 4 ≤ l.length) (hs : ¬writeSaved s l = true) :
    slotRec p q t = addressed (slotRec p q s) (l.getD 2 0) (l.getD 3 0) := by
  rw [h.slotRec_addressed, writeRecord, if_neg (Nat.not_lt.mpr hn), if_neg hs]

theorem WriteAt.slotRec_saved (hs : writeSaved s l = true) :
    slotRec p q t =
      { addressed (slotRec p q s) (l.getD 2 0) (l.getD 3 0) with flag := (slotRec p q s).flag &&& 0xF7 } := by
  obtain ⟨hn, -⟩ := (writeSaved_iff s l).mp hs
  rw [h.slotRec_addressed, writeRecord, if_neg (by omega), if_pos hs]

end WriteAt

end Sys2Proof.Machine

namespace Sys2Proof.Proofs

open Machine

/-- Settles O57: the run of the Read handler on the frame's bytes, whose invariant is `ReadAt`. -/
theorem nestedPs1Read : Obligations.NestedPs1Read := by
  intro rest s hready ha p q msb lsb bytes layout
  obtain ⟨reply, t, hexec, hlength, hlayout, hleft, hread⟩ := exec_mcPs1Read rest hready ha
  rw [NestedLeft, hread.cards] at hleft
  exact ⟨reply, t, hexec, hlength, hlayout, hleft, hread.cursor, fun hn => hread.buf (by omega), hread.slot⟩

/-- Settles O58: the run of the Write handler on the frame's bytes, whose invariant is `WriteAt`. -/
theorem nestedPs1Write : Obligations.NestedPs1Write := by
  intro rest s hwf hready ha p q msb lsb sector data status layout saved
  obtain ⟨reply, t, hexec, hlength, hlayout, hleft, hwrite⟩ := exec_mcPs1Write rest hready ha
  have hsaved : writeSaved s rest = true ↔ saved := writeSaved_iff s rest
  refine ⟨reply, t, hexec, hlength, hlayout, hleft, hwrite.cursor, fun hs => hwrite.saved hwf (hsaved.mpr hs),
    fun hs => hwrite.cards_of_not_saved (hs ∘ hsaved.mp), hwrite.slotRec_other, hwrite.slotRec_short,
    fun hn hs => hwrite.slotRec_unsaved hn (hs ∘ hsaved.mp), fun hs => hwrite.slotRec_saved (hsaved.mpr hs)⟩

end Sys2Proof.Proofs
end

section
/-! The auto-eject inputs and the checkpoint load: what they write, and obligations O33 and O34. -/

namespace Sys2Proof.Machine

section Counters

variable (s : State)

/-- The counter of one slot is written, and nothing else of any slot record. -/
theorem slotRec_setTicks (p p' : Port) (q q' : Slot) (n : Nat) :
    slotRec p' q' (setTicks p q n s) =
      if p' = p ∧ q' = q then { slotRec p' q' s with autoEjectTicks := n } else slotRec p' q' s := by
  rw [setTicks, slotRec_setSlotRec]
  by_cases h : p' = p ∧ q' = q
  · obtain ⟨rfl, rfl⟩ := h
    simp
  · rw [if_neg h, if_neg fun e => h ⟨e.1.symm, e.2.symm⟩]

/-- A counter is written in the table of slot records alone. -/
theorem setTicks_eq (p : Port) (q : Slot) (n : Nat) : setTicks p q n s = setMcd (setTicks p q n s).blk.mcd s := rfl

end Counters

section Load

variable (image : Image) (s : State)

/-- The comparison over the list of slots is the one over every port and slot. -/
theorem crcDiffers_iff : crcDiffers image s = true ↔ ∃ p q, (cardInput p q s).crc ≠ entryAt image.crc p q := by
  rw [crcDiffers, List.any_eq_true]
  constructor
  · rintro ⟨⟨p, q⟩, -, h⟩
    exact ⟨p, q, bne_iff_ne.mp h⟩
  · rintro ⟨p, q, h⟩
    exact ⟨(p, q), mem_allSlots p q, bne_iff_ne.mpr h⟩

theorem execPinCheckpointLoad_of_differs (h : crcDiffers image s = true) :
    execPinCheckpointLoad image s = .next (setAllTicks s.params.autoEjectTicks { s with blk := image.state }) := by
  simp only [execPinCheckpointLoad, if_pos h]

theorem execPinCheckpointLoad_of_same (h : ¬crcDiffers image s = true) :
    execPinCheckpointLoad image s = .next { s with blk := image.state } := by
  simp only [execPinCheckpointLoad, if_neg h]

end Load

end Sys2Proof.Machine

namespace Sys2Proof.Proofs

open Machine

/-- Settles O33: each input is one write of a counter, or the bulk write of all eight. -/
theorem autoEjectInputs : Obligations.AutoEjectInputs := by
  intro p q s written
  have one (n : Nat) : written true n (setTicks p q n s) := by
    refine ⟨setTicks_eq s p q n, fun p' q' => ?_⟩
    rw [slotRec_setTicks]
    by_cases h : p' = p ∧ q' = q
    · rw [if_pos h, if_neg fun e => e.2 h]
    · rw [if_neg h, if_pos ⟨rfl, h⟩]
  have all (n : Nat) : written false n (setAllTicks n s) := by
    refine ⟨setAllTicks_eq s n, fun p' q' => ?_⟩
    rw [slotRec_setAllTicks, if_neg fun e => Bool.false_ne_true e.1]
  exact ⟨⟨_, rfl, one _⟩, ⟨_, rfl, one _⟩, ⟨_, rfl, all _⟩, ⟨_, rfl, all _⟩⟩

/-- Settles O34: the two arms of the CRC comparison, the first a bulk write of the counters over the image's block. -/
theorem checkpointLoad : Obligations.CheckpointLoad := by
  intro image s
  by_cases hcrc : crcDiffers image s = true
  · obtain ⟨p, q, hpq⟩ := (crcDiffers_iff image s).mp hcrc
    exact ⟨_, execPinCheckpointLoad_of_differs image s hcrc, setAllTicks_eq _ _,
      fun _ => slotRec_setAllTicks _ _, fun hsame => absurd (hsame p q) hpq⟩
  · exact ⟨_, execPinCheckpointLoad_of_same image s hcrc, rfl,
      fun hdiff => absurd ((crcDiffers_iff image s).mpr hdiff) hcrc, fun _ => rfl⟩

end Sys2Proof.Proofs
end

section
/-! What hard reset leaves, when an instruction answers, the interrupt requests one makes, and obligations O7, O12 and
O36. -/

namespace Sys2Proof.Machine

/-! ### Hard reset (R29, R310) -/

/-- Every entry of a table built from one value is that value. -/
theorem entryAt_replicate {α : Type} (x : α) (p : Port) (q : Slot) :
    entryAt (Vector.replicate 2 (Vector.replicate 4 x)) p q = x := by
  rw [entryAt, Fin.getElem_fin, Fin.getElem_fin, Vector.getElem_replicate, Vector.getElem_replicate]

/-- Every entry of a cleared bank or buffer is 0. -/
theorem getElem_replicate_zero {n w : Nat} (i : Fin n) : (Vector.replicate n (0 : BitVec w))[i] = 0 := by
  rw [Fin.getElem_fin, Vector.getElem_replicate]

/-! ### Instructions that always answer (R285) -/

section Answers

variable {s : State}

/-- What writes DATA_IN answers a next state or the refusal of a short frame. -/
theorem Sends.next_or_refused {r : Result} (h : Sends s r) : (∃ t, r = .next t) ∨ r = .refused .frameTooShort := by
  cases r with
  | next t => exact .inl ⟨t, rfl⟩
  | fault f => exact h.elim
  | refused why => exact .inr (congrArg _ h)

/-- A register access or a control input answers. -/
theorem Hosts.next {r : Result} (h : Hosts s r) : ∃ t, r = .next t := by
  cases r with
  | next t => exact ⟨t, rfl⟩
  | fault f => exact h.elim
  | refused why => exact h.elim

/-- What writes no byte to DATA_IN answers in every state. -/
theorem exec_answers (i : Instr) (s : State) (hd : ¬ WritesDataIn i) : ∃ t, exec i s = .next t := by
  by_cases hx : WritesTxData i
  · obtain ⟨-, t, hexec, -⟩ := hx.answers s
    exact ⟨t, hexec⟩
  by_cases hr : i = .pinHardReset
  · exact hr ▸ ⟨_, rfl⟩
  by_cases hc : ∃ image, i = .pinCheckpointLoad image
  · obtain ⟨image, rfl⟩ := hc
    exact ⟨_, rfl⟩
  · exact (Hosts.exec i s hd hx hr fun image hi => hc ⟨image, hi⟩).next

end Answers

/-! ### The TX_DATA writes of an instruction -/

section TxWrites

variable {i : Instr} {s t : State}

theorem txWrites_wr8Sio0TxData (b : Byte) (s : State) :
    txWrites (.wr8Sio0TxData b) s = if txGated s then 0 else 1 := rfl

theorem txWrites_of_transaction {bytes : List Byte} (h : encode i = .transaction bytes) (s : State) :
    txWrites i s = if txGated s then 0 else bytes.length := by
  unfold txWrites
  split
  · rfl
  · split
    · cases h
    · next henc =>
      cases h.symm.trans henc
      rfl
    · next hother => exact absurd h (hother bytes)

theorem txWrites_of_not_writesTxData (h : ¬ WritesTxData i) (s : State) : txWrites i s = 0 := by
  unfold txWrites
  split
  · rfl
  · split
    · exact absurd (.inl ⟨_, rfl⟩) h
    · next henc => exact absurd (.inr ⟨_, henc⟩) h
    · rfl

/-- A TX_DATA write or a transaction is `TxRel` for exactly the writes `txWrites` counts. -/
theorem WritesTxData.txRel_txWrites (hi : WritesTxData i) (h : exec i s = .next t) : TxRel (txWrites i s) s t := by
  rcases hi with ⟨b, rfl⟩ | ⟨bytes, hb⟩
  · obtain ⟨u, hu, hrel⟩ := txWrite_cases b s
    cases hu.symm.trans h
    rwa [txWrites_wr8Sio0TxData]
  · obtain ⟨u, hu, hrel⟩ := sendTransaction_cases bytes s
    rw [exec_transaction i bytes s hb] at h
    cases hu.symm.trans h
    rwa [txWrites_of_transaction hb]

end TxWrites

/-! ### Instructions that make no interrupt request -/

/-- The result leaves both counts of interrupt requests. -/
def RequestsNone (s : State) (r : Result) : Prop :=
  ∀ t, r = .next t → ∀ line, irqCount line t = irqCount line s

section Requests

variable {i : Instr} {s t : State}

theorem requestsNone_of_events (h : t.events = s.events) : RequestsNone s (.next t) := by
  rintro _ ⟨⟩ line
  rw [irqCount, h, irqCount]

/-- The value a read returns is an event that is no request. -/
theorem requestsNone_emit {e : Event} (h : t.events = s.events) (he : ∀ line, e ≠ .irq line) :
    RequestsNone s (.next (emit e t)) := by
  rintro _ ⟨⟩ line
  exact ((HandlerRel.emit e he).irqs line).trans (requestsNone_of_events h t rfl line)

theorem requestsNone_wr16Sio0Ctrl (v : Half) : RequestsNone s (exec (.wr16Sio0Ctrl v) s) := by
  obtain ⟨r, q, hframe⟩ := ctrlArms_frame (setSio0 { s.blk.sio0 with ctrl := v } s) v
  rw [exec_wr16Sio0Ctrl, hframe, ctrlResetArm]
  split <;> exact requestsNone_of_events rfl

theorem requestsNone_wr32Sio2Send3 (k : Fin 16) (w : Word) : RequestsNone s (exec (.wr32Sio2Send3 k w) s) := by
  by_cases hk : k = 0
  · subst hk
    rw [exec_wr32Sio2Send3_zero]
    exact requestsNone_of_events rfl
  · rw [exec_wr32Sio2Send3_of_ne s hk]
    exact requestsNone_of_events rfl

theorem requestsNone_rd8Sio2DataOut : RequestsNone s (exec .rd8Sio2DataOut s) := by
  cases h : s.blk.fifoOut with
  | nil =>
    rw [exec_rd8Sio2DataOut_of_nil s h]
    exact requestsNone_emit rfl nofun
  | cons b bytes =>
    rw [exec_rd8Sio2DataOut_of_cons s h]
    exact requestsNone_emit rfl nofun

theorem requestsNone_setAllTicks (n : Nat) : RequestsNone s (.next (setAllTicks n s)) := by
  obtain ⟨mcd, hticks⟩ := setAllTicks_frame s n
  rw [hticks]
  exact requestsNone_of_events rfl

theorem requestsNone_pinCheckpointLoad (image : Image) : RequestsNone s (exec (.pinCheckpointLoad image) s) := by
  obtain ⟨mcd, hload⟩ := execPinCheckpointLoad_eq image s
  have hexec : exec (.pinCheckpointLoad image) s = execPinCheckpointLoad image s := rfl
  rw [hexec, hload]
  exact requestsNone_of_events rfl

theorem WritesDataIn.requestsNone (hd : WritesDataIn i) : RequestsNone s (exec i s) :=
  fun _ h => (hd.dataRel h).irqs

/-- No instruction but the writes of TX_DATA and of SIO2 CTRL requests an interrupt (R290, R291). -/
theorem exec_requestsNone (s : State) (hx : ¬ WritesTxData i) (hctrl : ∀ v, i ≠ .wr32Sio2Ctrl v) :
    RequestsNone s (exec i s) := by
  cases i with
  | rd8Sio0RxData | rd32Sio0Stat | rd16Sio0Ctrl | rd16Sio0Mode | rd32Sio2Send3 | rd32Sio2Send1 | rd32Sio2Send2
  | rd32Sio2Ctrl | rd32Sio2Recv1 | rd32Sio2Recv2 | rd32Sio2Recv3 => exact requestsNone_emit rfl nofun
  | wr32Sio0Stat | wr16Sio0Mode | wr32Sio2Send1 | wr32Sio2Send2 | wr32Sio2Recv1 | wr32Sio2Recv2 | wr32Sio2Recv3
  | pinHardReset | pinDmaSetBlock | pinAeSet | pinAeClear => exact requestsNone_of_events rfl
  | wr16Sio0Ctrl v => exact requestsNone_wr16Sio0Ctrl v
  | wr32Sio2Send3 k w => exact requestsNone_wr32Sio2Send3 k w
  | rd8Sio2DataOut => exact requestsNone_rd8Sio2DataOut
  | wr32Sio2Ctrl v => exact absurd rfl (hctrl v)
  | pinAeSetall => exact requestsNone_setAllTicks _
  | pinAeClearall => exact requestsNone_setAllTicks 0
  | pinCheckpointLoad image => exact requestsNone_pinCheckpointLoad image
  | wr8Sio2DataIn b => exact WritesDataIn.requestsNone (.inl ⟨b, rfl⟩)
  | wr8Sio0TxData b => exact absurd (.inl ⟨b, rfl⟩) hx
  | s0Pad | s0PadUnknown | s0Ps1Read | s0Ps1State | s0Ps1Write | s0Ps1Pocketstation | s0MemcardUnknown
  | s0UnknownMode => exact absurd (.inr ⟨_, rfl⟩) hx
  | _ => exact WritesDataIn.requestsNone (.inr ⟨_, rfl⟩)

/-- A CTRL write makes one request of IRQ(SIO2), or none, and none of IRQ(SIO0) (R106). -/
theorem irqCount_wr32Sio2Ctrl {v : Word} (h : exec (.wr32Sio2Ctrl v) s = .next t) :
    irqCount .sio0 t = irqCount .sio0 s
      ∧ irqCount .sio2 t = irqCount .sio2 s + if ctrlRequests v s = false then 0 else 1 := by
  rw [exec_wr32Sio2Ctrl] at h
  cases h
  simp only [irqCount, List.count_append]
  split <;> exact ⟨rfl, rfl⟩

end Requests

end Sys2Proof.Machine

namespace Sys2Proof.Proofs

open Machine

/-- Settles O7: the block is `Block.reset`, its banks, buffer and slot records each built from one value. -/
theorem hardReset : Obligations.HardReset := by
  intro s
  refine ⟨Block.reset, rfl, rfl, rfl, rfl, rfl, rfl, ?sendBanks, ?send3, rfl, rfl, rfl, rfl, rfl, rfl, rfl, rfl, rfl, rfl,
    rfl, rfl, ?records, rfl, rfl, rfl, rfl, rfl, ?buffer⟩
  case sendBanks => exact fun i => ⟨getElem_replicate_zero i, getElem_replicate_zero i⟩
  case send3 => exact getElem_replicate_zero
  case records => exact entryAt_replicate SlotRecord.reset
  case buffer => exact getElem_replicate_zero

/-- Settles O12: only what writes DATA_IN can be refused, and only as a short frame. -/
theorem onlyOneRefusal : Obligations.OnlyOneRefusal := by
  intro i s
  refine ⟨?_, fun hframe hwrite => exec_answers i s (not_writesDataIn hframe hwrite)⟩
  by_cases hd : WritesDataIn i
  · exact (hd.sends s).next_or_refused
  · exact .inl (exec_answers i s hd)

/-- Settles O36: the writes of TX_DATA, the write of CTRL, and every other instruction. -/
theorem interruptRequests : Obligations.InterruptRequests := by
  intro i s t hexec
  by_cases hx : WritesTxData i
  · have hrel := hx.txRel_txWrites hexec
    refine ⟨hrel.irqs0, fun _ => hrel.irqs2, ?_⟩
    rintro v rfl
    exact absurd hx (not_writesTxData nofun nofun)
  rw [txWrites_of_not_writesTxData hx]
  by_cases hctrl : ∃ v, i = .wr32Sio2Ctrl v
  · obtain ⟨v, rfl⟩ := hctrl
    obtain ⟨hsio0, hsio2⟩ := irqCount_wr32Sio2Ctrl hexec
    refine ⟨hsio0, fun hother => absurd rfl (hother v), ?_⟩
    rintro _ ⟨⟩
    simpa only [ctrlRequests_eq_false_iff] using hsio2
  · have hnone := exec_requestsNone s hx (fun v hi => hctrl ⟨v, hi⟩) t hexec
    exact ⟨hnone .sio0, fun _ => hnone .sio2, fun v hi => absurd ⟨v, hi⟩ hctrl⟩

end Sys2Proof.Proofs
end
